-- ==== Sys2Proof/Word.lean ====
section
/-! DEFINITION. The words of the machine: 8-bit data, 16-bit addresses, 4-bit register numbers (00_scope.md R7, R12). -/

namespace Sys2Proof

/-- An 8-bit cell of memory, register or timer. -/
abbrev Byte := BitVec 8

/-- A 16-bit value: an instruction word, the pc, I, a stack entry. -/
abbrev Word := BitVec 16

/-- A register number; every value is valid (30_encoding.md R73). -/
abbrev Reg := Fin 16

/-- A key number (10_state.md R34). -/
abbrev Key := Fin 16

/-- VF, the flag register (10_state.md R21). -/
abbrev vf : Reg := 15

end Sys2Proof
end

