-- ==== Sys2Proof/Config.lean ====
section
/-! DEFINITION. What an implementation fixes (PROG_BASE, FONT_BASE, FONTSET) and the free values (the inputs of a step). -/

namespace Sys2Proof

/-- The named parameters of 00_scope.md R8. Their default values are in Machine/Parameters.lean. -/
structure Config where
  /-- PROG_BASE: the pc after reset and the first address of the program image. -/
  progBase : Word
  /-- FONT_BASE: the first address of the fontset. -/
  fontBase : Word
  /-- FONTSET: 16 glyphs of 5 bytes, the top row first (10_state.md R32). -/
  fontset : Vector (Vector Byte 5) 16
  deriving DecidableEq, Repr

/-- FREE VALUE (00_scope.md R9, 10_state.md R34; log 5): whether key `k` is down in the `n`-th sample, where the host
has queued none. Nothing is known of it. -/
opaque Config.keyDown : Nat → Key → Bool

/-- FREE VALUE (00_scope.md R9, 10_state.md R35; log 5): the random byte of the `n`-th sample, where the host has queued
none. Nothing is known of it. -/
opaque Config.rndByte : Nat → Byte

end Sys2Proof
end

