-- ==== Sys2Proof/Syntax.lean ====
section
/-! DEFINITION. The instructions: one constructor per row of spec/opcode_table.json (30_encoding.md R82), in its order. -/

namespace Sys2Proof

/-- An instruction with its operands: `x`, `y` register numbers, `kk` a byte, `nnn` an address, `n` a row count
(00_scope.md R16). Ignored bits of a word are no part of the instruction (30_encoding.md R80). -/
inductive Instr where
  /-- CLS -/
  | cls
  /-- RET -/
  | ret
  /-- JP nnn -/
  | jp (nnn : BitVec 12)
  /-- CALL nnn -/
  | call (nnn : BitVec 12)
  /-- SE Vx,kk -/
  | seVxKk (x : Reg) (kk : Byte)
  /-- SNE Vx,kk -/
  | sneVxKk (x : Reg) (kk : Byte)
  /-- SE Vx,Vy -/
  | seVxVy (x y : Reg)
  /-- LD Vx,kk -/
  | ldVxKk (x : Reg) (kk : Byte)
  /-- ADD Vx,kk -/
  | addVxKk (x : Reg) (kk : Byte)
  /-- LD Vx,Vy -/
  | ldVxVy (x y : Reg)
  /-- OR Vx,Vy -/
  | orVxVy (x y : Reg)
  /-- AND Vx,Vy -/
  | andVxVy (x y : Reg)
  /-- XOR Vx,Vy -/
  | xorVxVy (x y : Reg)
  /-- ADD Vx,Vy -/
  | addVxVy (x y : Reg)
  /-- SUB Vx,Vy -/
  | subVxVy (x y : Reg)
  /-- SHR Vx -/
  | shrVx (x : Reg)
  /-- SUBN Vx,Vy -/
  | subnVxVy (x y : Reg)
  /-- SHL Vx -/
  | shlVx (x : Reg)
  /-- SNE Vx,Vy -/
  | sneVxVy (x y : Reg)
  /-- LD I,nnn -/
  | ldI (nnn : BitVec 12)
  /-- JP V0,nnn -/
  | jpV0 (nnn : BitVec 12)
  /-- RND Vx,kk -/
  | rnd (x : Reg) (kk : Byte)
  /-- DRW Vx,Vy,n -/
  | drw (x y : Reg) (n : Fin 16)
  /-- SKP Vx -/
  | skp (x : Reg)
  /-- SKNP Vx -/
  | sknp (x : Reg)
  /-- LD Vx,DT -/
  | ldVxDT (x : Reg)
  /-- LD Vx,K -/
  | ldVxK (x : Reg)
  /-- LD DT,Vx -/
  | ldDTVx (x : Reg)
  /-- LD ST,Vx -/
  | ldSTVx (x : Reg)
  /-- ADD I,Vx -/
  | addIVx (x : Reg)
  /-- LD F,Vx -/
  | ldFVx (x : Reg)
  /-- LD B,Vx -/
  | ldBVx (x : Reg)
  /-- LD [I],Vx -/
  | ldMemVx (x : Reg)
  /-- LD Vx,[I] -/
  | ldVxMem (x : Reg)
  /-- NOP: every word no other row matches -/
  | nop
  deriving DecidableEq, Repr

end Sys2Proof
end

