-- ==== Sys2Proof/WellFormed.lean ====
section
/-! DEFINITION. Which configurations and which instructions are well formed. -/

namespace Sys2Proof

/-- The constraints a configuration must meet (00_scope.md R8): the fontset lies below the program base, and the
program base in memory. -/
def Config.wellFormed (c : Config) : Bool :=
  decide (c.fontBase.toNat + 80 ≤ c.progBase.toNat) && decide (c.progBase.toNat < 4096)

/-- Every instruction is well formed: register numbers, immediates and row counts carry their width in their type, and
every value of that width is valid (30_encoding.md R73). -/
def Instr.wellFormed : Instr → Bool
  | .cls | .ret | .nop => true
  | .jp _ | .call _ | .ldI _ | .jpV0 _ => true
  | .seVxKk _ _ | .sneVxKk _ _ | .ldVxKk _ _ | .addVxKk _ _ | .rnd _ _ => true
  | .seVxVy _ _ | .sneVxVy _ _ | .ldVxVy _ _ | .orVxVy _ _ | .andVxVy _ _ | .xorVxVy _ _ => true
  | .addVxVy _ _ | .subVxVy _ _ | .subnVxVy _ _ => true
  | .shrVx _ | .shlVx _ => true
  | .drw _ _ _ => true
  | .skp _ | .sknp _ | .ldVxDT _ | .ldVxK _ | .ldDTVx _ | .ldSTVx _ => true
  | .addIVx _ | .ldFVx _ | .ldBVx _ | .ldMemVx _ | .ldVxMem _ => true

/-- An image fits the memory from PROG_BASE up (70_reset_and_hazards.md R197). -/
def Config.imageFits (c : Config) (image : List Byte) : Bool :=
  decide (image.length ≤ 4096 - c.progBase.toNat)

end Sys2Proof
end

