-- ==== Sys2Proof/Decode.lean ====
section
/-! DEFINITION. The two-level dispatcher (30_encoding.md R71 to R86), total on words and on bytes, and the encoder. -/

namespace Sys2Proof

/-! ## Fields of a word (30_encoding.md R71; log 11: the positions of x and y are the spec's decision D5) -/

/-- op = w[15:12] -/
def opField (w : Word) : BitVec 4 := w.extractLsb' 12 4

/-- x = w[11:8], as a register number -/
def xField (w : Word) : Reg := (w.extractLsb' 8 4).toFin

/-- y = w[7:4], as a register number -/
def yField (w : Word) : Reg := (w.extractLsb' 4 4).toFin

/-- n = w[3:0], as the secondary key of families 0, 8 and E -/
def nField (w : Word) : BitVec 4 := w.extractLsb' 0 4

/-- n = w[3:0], as a row count -/
def rowsField (w : Word) : Fin 16 := (nField w).toFin

/-- kk = w[7:0] -/
def kkField (w : Word) : Byte := w.extractLsb' 0 8

/-- nnn = w[11:0] -/
def nnnField (w : Word) : BitVec 12 := w.extractLsb' 0 12

/-! ## The secondary dispatchers (log 11: the pairing of keys with operations is the spec's decision D4) -/

/-- Family 0 (R75): the low nibble alone selects. -/
def decodeFamily0 (w : Word) : Instr :=
  match nField w with
  | 0x0#4 => .cls
  | 0xE#4 => .ret
  | _ => .nop

/-- Family 8 (R76): the low nibble selects the ALU operation. -/
def decodeFamily8 (w : Word) : Instr :=
  match nField w with
  | 0x0#4 => .ldVxVy (xField w) (yField w)
  | 0x1#4 => .orVxVy (xField w) (yField w)
  | 0x2#4 => .andVxVy (xField w) (yField w)
  | 0x3#4 => .xorVxVy (xField w) (yField w)
  | 0x4#4 => .addVxVy (xField w) (yField w)
  | 0x5#4 => .subVxVy (xField w) (yField w)
  | 0x6#4 => .shrVx (xField w)
  | 0x7#4 => .subnVxVy (xField w) (yField w)
  | 0xE#4 => .shlVx (xField w)
  | _ => .nop

/-- Family E (R77): the low nibble alone selects. -/
def decodeFamilyE (w : Word) : Instr :=
  match nField w with
  | 0x1#4 => .sknp (xField w)
  | 0xE#4 => .skp (xField w)
  | _ => .nop

/-- Family F (R79): the low byte selects. -/
def decodeFamilyF (w : Word) : Instr :=
  match kkField w with
  | 0x07#8 => .ldVxDT (xField w)
  | 0x0A#8 => .ldVxK (xField w)
  | 0x15#8 => .ldDTVx (xField w)
  | 0x18#8 => .ldSTVx (xField w)
  | 0x1E#8 => .addIVx (xField w)
  | 0x29#8 => .ldFVx (xField w)
  | 0x33#8 => .ldBVx (xField w)
  | 0x55#8 => .ldMemVx (xField w)
  | 0x65#8 => .ldVxMem (xField w)
  | _ => .nop

/-- The decoder of a word (R74, R86): total, every word has a meaning (R78). -/
def decodeWord (w : Word) : Instr :=
  match opField w with
  | 0x0#4 => decodeFamily0 w
  | 0x1#4 => .jp (nnnField w)
  | 0x2#4 => .call (nnnField w)
  | 0x3#4 => .seVxKk (xField w) (kkField w)
  | 0x4#4 => .sneVxKk (xField w) (kkField w)
  | 0x5#4 => .seVxVy (xField w) (yField w)
  | 0x6#4 => .ldVxKk (xField w) (kkField w)
  | 0x7#4 => .addVxKk (xField w) (kkField w)
  | 0x8#4 => decodeFamily8 w
  | 0x9#4 => .sneVxVy (xField w) (yField w)
  | 0xA#4 => .ldI (nnnField w)
  | 0xB#4 => .jpV0 (nnnField w)
  | 0xC#4 => .rnd (xField w) (kkField w)
  | 0xD#4 => .drw (xField w) (yField w) (rowsField w)
  | 0xE#4 => decodeFamilyE w
  | _ => decodeFamilyF w

/-! ## Words as bytes (R70: big-endian, high byte first) -/

/-- The word whose high byte is `hi` and low byte `lo` (20_memory.md R50). -/
def wordOfBytes (hi lo : Byte) : Word := hi ++ lo

/-- The high byte of a word, stored at the lower address. -/
def highByte (w : Word) : Byte := w.extractLsb' 8 8

/-- The low byte of a word. -/
def lowByte (w : Word) : Byte := w.extractLsb' 0 8

/-- Why bytes are no instruction. Safe: the machine itself always fetches two bytes. -/
inductive DecodeError where
  /-- Fewer than the two bytes of a word (R70). Raised by `decode`. -/
  | truncated
  deriving DecidableEq, Repr

/-- The instruction at the head of a list of bytes, with the bytes that follow it. -/
def decode : List Byte → Except DecodeError (Instr × List Byte)
  | hi :: lo :: rest => .ok (decodeWord (wordOfBytes hi lo), rest)
  | _ => .error .truncated

/-- The bytes of the word `w` of `nbits` bits, numbered as spec/opcode_table.json numbers them: as the hardware stores
it, high byte first. Bits above `nbits` are 0, and no instruction has more than 16 (log 20). -/
def tableWordBytes (nbits w : Nat) : List Byte :=
  let word : Word := BitVec.ofNat 16 (w % 2 ^ nbits)
  [highByte word, lowByte word]

/-- What the decoder reads from a word of the opcode table. -/
def decodeTableWord (nbits w : Nat) : Option Instr :=
  match decode (tableWordBytes nbits w) with
  | .ok (i, _) => some i
  | .error _ => none

/-! ## The encoder: canonical spellings (30_encoding.md R81, R82) -/

/-- A word of format A (R72). -/
def formatA (op : Nat) (nnn : BitVec 12) : Word := BitVec.ofNat 16 (op * 0x1000 + nnn.toNat)

/-- A word of format XK (R72). -/
def formatXK (op : Nat) (x : Reg) (kk : Byte) : Word := BitVec.ofNat 16 (op * 0x1000 + x.val * 0x100 + kk.toNat)

/-- A word of format XY or XYN (R72). -/
def formatXYN (op : Nat) (x y : Reg) (n : Nat) : Word :=
  BitVec.ofNat 16 (op * 0x1000 + x.val * 0x100 + y.val * 0x10 + n)

/-- A word of format X (R72): `key` is the low byte. -/
def formatX (op : Nat) (x : Reg) (key : Nat) : Word := BitVec.ofNat 16 (op * 0x1000 + x.val * 0x100 + key)

/-- The canonical word of an instruction. -/
def encode : Instr → Word
  | .cls => 0x00E0#16
  | .ret => 0x00EE#16
  | .jp nnn => formatA 0x1 nnn
  | .call nnn => formatA 0x2 nnn
  | .seVxKk x kk => formatXK 0x3 x kk
  | .sneVxKk x kk => formatXK 0x4 x kk
  | .seVxVy x y => formatXYN 0x5 x y 0x0
  | .ldVxKk x kk => formatXK 0x6 x kk
  | .addVxKk x kk => formatXK 0x7 x kk
  | .ldVxVy x y => formatXYN 0x8 x y 0x0
  | .orVxVy x y => formatXYN 0x8 x y 0x1
  | .andVxVy x y => formatXYN 0x8 x y 0x2
  | .xorVxVy x y => formatXYN 0x8 x y 0x3
  | .addVxVy x y => formatXYN 0x8 x y 0x4
  | .subVxVy x y => formatXYN 0x8 x y 0x5
  | .shrVx x => formatXYN 0x8 x 0 0x6
  | .subnVxVy x y => formatXYN 0x8 x y 0x7
  | .shlVx x => formatXYN 0x8 x 0 0xE
  | .sneVxVy x y => formatXYN 0x9 x y 0x0
  | .ldI nnn => formatA 0xA nnn
  | .jpV0 nnn => formatA 0xB nnn
  | .rnd x kk => formatXK 0xC x kk
  | .drw x y n => formatXYN 0xD x y n.val
  | .skp x => formatX 0xE x 0x9E
  | .sknp x => formatX 0xE x 0xA1
  | .ldVxDT x => formatX 0xF x 0x07
  | .ldVxK x => formatX 0xF x 0x0A
  | .ldDTVx x => formatX 0xF x 0x15
  | .ldSTVx x => formatX 0xF x 0x18
  | .addIVx x => formatX 0xF x 0x1E
  | .ldFVx x => formatX 0xF x 0x29
  | .ldBVx x => formatX 0xF x 0x33
  | .ldMemVx x => formatX 0xF x 0x55
  | .ldVxMem x => formatX 0xF x 0x65
  | .nop => 0x0001#16

/-- The two bytes of an instruction as memory holds them (R70). -/
def encodeBytes (i : Instr) : List Byte := [highByte (encode i), lowByte (encode i)]

/-! ## The opcode map as a table (30_encoding.md R82) -/

/-- One row: a word belongs to it when `w AND mask = match` (here `pattern`). -/
structure OpcodeRow where
  mnemonic : String
  mask : Word
  pattern : Word
  deriving DecidableEq, Repr

/-- The rows of R82 but the fallback, in the table's order. -/
def opcodeTable : List OpcodeRow :=
  [⟨"CLS", 0xF00F, 0x0000⟩, ⟨"RET", 0xF00F, 0x000E⟩, ⟨"JP_nnn", 0xF000, 0x1000⟩, ⟨"CALL_nnn", 0xF000, 0x2000⟩,
    ⟨"SE_Vx_kk", 0xF000, 0x3000⟩, ⟨"SNE_Vx_kk", 0xF000, 0x4000⟩, ⟨"SE_Vx_Vy", 0xF000, 0x5000⟩,
    ⟨"LD_Vx_kk", 0xF000, 0x6000⟩, ⟨"ADD_Vx_kk", 0xF000, 0x7000⟩] ++
  [⟨"LD_Vx_Vy", 0xF00F, 0x8000⟩, ⟨"OR_Vx_Vy", 0xF00F, 0x8001⟩, ⟨"AND_Vx_Vy", 0xF00F, 0x8002⟩,
    ⟨"XOR_Vx_Vy", 0xF00F, 0x8003⟩, ⟨"ADD_Vx_Vy", 0xF00F, 0x8004⟩, ⟨"SUB_Vx_Vy", 0xF00F, 0x8005⟩,
    ⟨"SHR_Vx", 0xF00F, 0x8006⟩, ⟨"SUBN_Vx_Vy", 0xF00F, 0x8007⟩, ⟨"SHL_Vx", 0xF00F, 0x800E⟩] ++
  [⟨"SNE_Vx_Vy", 0xF000, 0x9000⟩, ⟨"LD_I_nnn", 0xF000, 0xA000⟩, ⟨"JP_V0_nnn", 0xF000, 0xB000⟩,
    ⟨"RND_Vx_kk", 0xF000, 0xC000⟩, ⟨"DRW_Vx_Vy_n", 0xF000, 0xD000⟩, ⟨"SKP_Vx", 0xF00F, 0xE00E⟩,
    ⟨"SKNP_Vx", 0xF00F, 0xE001⟩] ++
  [⟨"LD_Vx_DT", 0xF0FF, 0xF007⟩, ⟨"LD_Vx_K", 0xF0FF, 0xF00A⟩, ⟨"LD_DT_Vx", 0xF0FF, 0xF015⟩,
    ⟨"LD_ST_Vx", 0xF0FF, 0xF018⟩, ⟨"ADD_I_Vx", 0xF0FF, 0xF01E⟩, ⟨"LD_F_Vx", 0xF0FF, 0xF029⟩,
    ⟨"LD_B_Vx", 0xF0FF, 0xF033⟩, ⟨"LD__I__Vx", 0xF0FF, 0xF055⟩, ⟨"LD_Vx__I", 0xF0FF, 0xF065⟩]

/-- The opcode-table mnemonic of an instruction. -/
def Instr.mnemonic : Instr → String
  | .cls => "CLS"
  | .ret => "RET"
  | .jp _ => "JP_nnn"
  | .call _ => "CALL_nnn"
  | .seVxKk _ _ => "SE_Vx_kk"
  | .sneVxKk _ _ => "SNE_Vx_kk"
  | .seVxVy _ _ => "SE_Vx_Vy"
  | .ldVxKk _ _ => "LD_Vx_kk"
  | .addVxKk _ _ => "ADD_Vx_kk"
  | .ldVxVy _ _ => "LD_Vx_Vy"
  | .orVxVy _ _ => "OR_Vx_Vy"
  | .andVxVy _ _ => "AND_Vx_Vy"
  | .xorVxVy _ _ => "XOR_Vx_Vy"
  | .addVxVy _ _ => "ADD_Vx_Vy"
  | .subVxVy _ _ => "SUB_Vx_Vy"
  | .shrVx _ => "SHR_Vx"
  | .subnVxVy _ _ => "SUBN_Vx_Vy"
  | .shlVx _ => "SHL_Vx"
  | .sneVxVy _ _ => "SNE_Vx_Vy"
  | .ldI _ => "LD_I_nnn"
  | .jpV0 _ => "JP_V0_nnn"
  | .rnd _ _ => "RND_Vx_kk"
  | .drw _ _ _ => "DRW_Vx_Vy_n"
  | .skp _ => "SKP_Vx"
  | .sknp _ => "SKNP_Vx"
  | .ldVxDT _ => "LD_Vx_DT"
  | .ldVxK _ => "LD_Vx_K"
  | .ldDTVx _ => "LD_DT_Vx"
  | .ldSTVx _ => "LD_ST_Vx"
  | .addIVx _ => "ADD_I_Vx"
  | .ldFVx _ => "LD_F_Vx"
  | .ldBVx _ => "LD_B_Vx"
  | .ldMemVx _ => "LD__I__Vx"
  | .ldVxMem _ => "LD_Vx__I"
  | .nop => "NOP"

end Sys2Proof
end

