-- ==== Sys2Proof/Machine/Parameters.lean ====
section
/-! DEFINITION. The default configuration (00_scope.md R8, 10_state.md R32). PRESUMED (log 2, 3, 4): the source document
gives no number; the spec supplies these from general knowledge. -/

namespace Sys2Proof.Machine

/-- PROG_BASE by default (R8; PRESUMED, log 2). -/
def defaultProgBase : Word := 0x200#16

/-- FONT_BASE by default (R8; PRESUMED, log 3). -/
def defaultFontBase : Word := 0x050#16

/-- The glyphs of the digits 0 to 7 (R32; PRESUMED, log 4). -/
def glyphs0to7 : Vector (Vector Byte 5) 8 :=
  #v[#v[0xF0, 0x90, 0x90, 0x90, 0xF0], #v[0x20, 0x60, 0x20, 0x20, 0x70],
     #v[0xF0, 0x10, 0xF0, 0x80, 0xF0], #v[0xF0, 0x10, 0xF0, 0x10, 0xF0],
     #v[0x90, 0x90, 0xF0, 0x10, 0x10], #v[0xF0, 0x80, 0xF0, 0x10, 0xF0],
     #v[0xF0, 0x80, 0xF0, 0x90, 0xF0], #v[0xF0, 0x10, 0x20, 0x40, 0x40]]

/-- The glyphs of the digits 8 to F (R32; PRESUMED, log 4). -/
def glyphs8toF : Vector (Vector Byte 5) 8 :=
  #v[#v[0xF0, 0x90, 0xF0, 0x90, 0xF0], #v[0xF0, 0x90, 0xF0, 0x10, 0xF0],
     #v[0xF0, 0x90, 0xF0, 0x90, 0x90], #v[0xE0, 0x90, 0xE0, 0x90, 0xE0],
     #v[0xF0, 0x80, 0x80, 0x80, 0xF0], #v[0xE0, 0x90, 0x90, 0x90, 0xE0],
     #v[0xF0, 0x80, 0xF0, 0x80, 0xF0], #v[0xF0, 0x80, 0xF0, 0x80, 0x80]]

/-- The configuration `State.reset` uses (log 1). -/
def defaultConfig : Config :=
  { progBase := defaultProgBase, fontBase := defaultFontBase, fontset := glyphs0to7 ++ glyphs8toF }

end Sys2Proof.Machine
end

