-- ==== Sys2Proof/Machine/State.lean ====
section
/-! DEFINITION. The state of the machine (10_state.md), the reasons a step can stop, and the state after reset. -/

namespace Sys2Proof.Machine

/-- The inputs of one step (10_state.md R34, R35): which keys are down, and the random byte. -/
structure Sample where
  /-- key[0..15] -/
  keys : Vector Bool 16
  /-- rnd -/
  rnd : Byte
  deriving DecidableEq, Repr

/-- The spec's two faults (60_exceptions.md R170, R171). Both are values of the FAULT latch: a faulting instruction TAKES
its fault as a next state (`State.raise`), so no step ends in `Outcome.fault` (log 8). Safe: the machine stops where the
source document gives no behaviour. -/
inductive Fault where
  /-- Code 1. Raised by CALL nnn when SP = 16, into the latch. Safe. -/
  | stackOverflow
  /-- Code 2. Raised by RET when SP = 0, into the latch. Safe. -/
  | stackUnderflow
  deriving DecidableEq, Repr

/-- Why an instruction has no meaning. Every instruction has one, so no step is refused. -/
inductive Refusal where
  /-- An arm of `exec` without a meaning; raised by no arm. Safe. -/
  | notModelled (mnemonic : String)
  deriving DecidableEq, Repr

/-- A byte of memory that differs from its reset contents is a cell of the list `mem` (log 10). -/
abbrev Memory := List Host.Cell

/-- FB: 32 rows, the top first, of 64 columns, the left first; `true` is on (10_state.md R33). -/
abbrev Screen := Vector (Vector Bool 64) 32

/-- What a meaning answers. -/
abbrev Result (σ : Type) := Host.Outcome σ Fault Refusal

/-- Everything the spec gives the machine, and three fields of the model's own: the configuration, which no step changes
(log 1), and the inputs, which the interface leaves no other place (log 5). -/
structure State where
  /-- V[0..15] (R20) -/
  v : Vector Byte 16
  /-- I (R25) -/
  i : Word
  /-- pc (R23) -/
  pc : Word
  /-- STACK[0..15] (R26) -/
  stack : Vector Word 16
  /-- SP, 0..16 (R27; log 9) -/
  sp : Fin 17
  /-- DT (R28) -/
  dt : Byte
  /-- ST (R29) -/
  st : Byte
  /-- MEM (R31), as what differs from its reset contents (log 10) -/
  mem : Memory
  /-- FB (R33) -/
  fb : Screen
  /-- FAULT (R30; log 9): `none` is code 0 -/
  fault : Option Fault
  /-- the model's own: PROG_BASE, FONT_BASE, FONTSET (R8; log 1) -/
  cfg : Config
  /-- the model's own: the samples the host has presented and no step has used (log 5) -/
  inputs : List Sample
  /-- the model's own: how many samples steps have used (log 5) -/
  drawn : Nat
  deriving DecidableEq, Repr

/-- Reset with a configuration (70_reset_and_hazards.md R190; 10_state.md R39). -/
def State.resetWith (c : Config) : State :=
  { v := Vector.replicate 16 0
    i := 0
    pc := c.progBase
    stack := Vector.replicate 16 0
    sp := 0
    dt := 0
    st := 0
    mem := []
    fb := Vector.replicate 32 (Vector.replicate 64 false)
    fault := none
    cfg := c
    inputs := []
    drawn := 0 }

/-- The machine right after reset, with the default configuration (log 2, 3, 4). -/
def State.reset : State := State.resetWith defaultConfig

end Sys2Proof.Machine
end

