-- ==== Sys2Proof/Machine/Ops.lean ====
section
/-! DEFINITION. The named operations over memory, registers, stack, screen and inputs; taking a fault; the phases of a step
that all instructions share. -/

namespace Sys2Proof.Machine

/-! ## Memory: a list of what differs from the reset contents, addresses rising (log 10) -/

/-- The reset contents of a cell (10_state.md R31): FONTSET from FONT_BASE on, 0 elsewhere. This is what an unlisted
address reads as. -/
def resetByte (c : Config) (a : Nat) : Byte :=
  let off := a - c.fontBase.toNat
  if c.fontBase.toNat ≤ a ∧ off < 80 then
    c.fontset[Fin.ofNat 16 (off / 5)][Fin.ofNat 5 (off % 5)]
  else 0

/-- The cell at address `a`. -/
def Memory.read (c : Config) : Memory → Nat → Byte
  | [], a => resetByte c a
  | (b, x) :: m, a => if a = b then x else Memory.read c m a

/-- `m` with the cell (a, x) before it, or without one where `x` is what `a` reads as unlisted. -/
def Memory.put (c : Config) (a : Nat) (x : Byte) (m : Memory) : Memory :=
  if x = resetByte c a then m else (a, x) :: m

/-- Sets the cell at address `a`; keeps the canonical form. -/
def Memory.write (c : Config) : Memory → Nat → Byte → Memory
  | [], a, x => Memory.put c a x []
  | (b, y) :: m, a, x =>
    if a < b then Memory.put c a x ((b, y) :: m)
    else if a = b then Memory.put c a x m
    else (b, y) :: Memory.write c m a x

/-- The canonical form: addresses in 0..4095, strictly rising, no cell equal to its reset contents. -/
def Memory.wf (c : Config) (m : Memory) : Bool :=
  decide (m.Pairwise fun p q => p.1 < q.1) && m.all fun p => decide (p.1 < 4096) && decide (p.2 ≠ resetByte c p.1)

/-- MemRead(addr, 1) (00_scope.md R14): every address is taken modulo 4096. -/
def State.readByte (s : State) (addr : Nat) : Byte := Memory.read s.cfg s.mem (addr % 4096)

/-- MemWrite(addr, 1, x) (R14). -/
def State.writeByte (s : State) (addr : Nat) (x : Byte) : State :=
  { s with mem := Memory.write s.cfg s.mem (addr % 4096) x }

/-- Writes bytes to rising addresses from `addr` on, each address modulo 4096 on its own (20_memory.md R51, R54). -/
def State.writeBytes (s : State) (addr : Nat) : List Byte → State
  | [] => s
  | x :: xs => State.writeBytes (s.writeByte addr x) (addr + 1) xs

/-! ## Registers -/

/-- V[x] -/
def State.reg (s : State) (x : Reg) : Byte := s.v[x]

/-- V[x] <- b -/
def State.setReg (s : State) (x : Reg) (b : Byte) : State := { s with v := s.v.set x.val b x.isLt }

/-- V[x] <- b where there is a `b`; unchanged otherwise. -/
def State.setRegIf (s : State) (x : Reg) (b : Option Byte) : State :=
  { s with v := match b with | some b => s.v.set x.val b x.isLt | none => s.v }

/-- The flag is written last, over whatever VF holds (10_state.md R22). -/
def State.setFlag (s : State) (flag : Bool) : State := s.setReg vf (if flag then 1 else 0)

/-- The flag-last rule (R22): the result to V[x], then the flag to VF. -/
def State.setRegFlag (s : State) (x : Reg) (b : Byte) (flag : Bool) : State := (s.setReg x b).setFlag flag

/-- I <- w -/
def State.setI (s : State) (w : Word) : State := { s with i := w }

/-- DT <- b -/
def State.setDT (s : State) (b : Byte) : State := { s with dt := b }

/-- ST <- b -/
def State.setST (s : State) (b : Byte) : State := { s with st := b }

/-- V[r] <- MEM[(addr + r) mod 4096] for r in 0..x (43_index_memory.md R145). -/
def State.loadRegs (s : State) (x : Reg) (addr : Nat) : State :=
  { s with v := Vector.ofFn fun r : Fin 16 => if r ≤ x then s.readByte (addr + r.val) else s.v[r] }

/-- V[0], ..., V[x] -/
def State.regsUpTo (s : State) (x : Reg) : List Byte := s.v.toList.take (x.val + 1)

/-! ## Program counter -/

/-- pc <- target (41_control_transfer.md R108: nothing checks it). -/
def State.jump (s : State) (target : Word) : State := { s with pc := target }

/-- Passes over the next instruction when `taken` (R109). -/
def State.skipIf (s : State) (taken : Bool) : State := { s with pc := if taken then s.pc + 2 else s.pc }

/-- Goes back over the fetch when `held`, so that the same instruction is fetched again (44_timer_key.md R155). -/
def State.holdIf (s : State) (held : Bool) : State := { s with pc := if held then s.pc - 2 else s.pc }

/-! ## Faults: taking one, and the return (there is none) -/

/-- Taking a fault (00_scope.md R15, 60_exceptions.md R176): FAULT takes the code. Nothing is saved and control goes
nowhere. The other half of `raise`, discarding the step's writes, is `State.settle`, which every step ends with. There
is no return from a fault (R177): only reset clears FAULT. -/
def State.raise (s : State) (f : Fault) : State := { s with fault := some f }

/-! ## Call stack (10_state.md R26, R27) -/

/-- The state with `w` pushed; none when SP = 16, where CALL faults (41_control_transfer.md R102). -/
def State.push (s : State) (w : Word) : Option State :=
  if h : s.sp.val < 16 then
    some { s with stack := s.stack.set s.sp.val w h, sp := ⟨s.sp.val + 1, by omega⟩ }
  else none

/-- The state with an entry popped, and that entry; none when SP = 0, where RET faults (R100). The entry stays in
STACK. -/
def State.pop (s : State) : Option (State × Word) :=
  if h : 0 < s.sp.val then
    some ({ s with sp := ⟨s.sp.val - 1, by omega⟩ }, s.stack[s.sp.val - 1])
  else none

/-! ## Screen (10_state.md R33) -/

/-- FB[r][c] -/
def Screen.get (fb : Screen) (r : Fin 32) (c : Fin 64) : Bool := fb[r][c]

/-- FB[r][c] <- FB[r][c] XOR 1 -/
def Screen.flip (fb : Screen) (r : Fin 32) (c : Fin 64) : Screen :=
  Vector.set fb r.val (fb[r].set c.val (!Screen.get fb r c) c.isLt) r.isLt

/-- Every pixel off. -/
def Screen.dark : Screen := Vector.replicate 32 (Vector.replicate 64 false)

/-- FB[r][c]; the host's read port too (70_reset_and_hazards.md R208). -/
def State.pixel (s : State) (r : Fin 32) (c : Fin 64) : Bool := Screen.get s.fb r c

/-- FB <- fb -/
def State.setScreen (s : State) (fb : Screen) : State := { s with fb := fb }

/-! ## Inputs: one sample a step (70_reset_and_hazards.md R203; log 5) -/

/-- The free sample number `n`. -/
def freeSample (n : Nat) : Sample := { keys := Vector.ofFn (Config.keyDown n), rnd := Config.rndByte n }

/-- The sample this step sees: the oldest the host has queued, or a free one. -/
def State.sample (s : State) : Sample :=
  match s.inputs with
  | x :: _ => x
  | [] => freeSample s.drawn

/-- key[k] (10_state.md R34) -/
def State.key (s : State) (k : Key) : Bool := s.sample.keys[k]

/-- rnd (R35) -/
def State.rndByte (s : State) : Byte := s.sample.rnd

/-- The lowest-numbered key that is down (44_timer_key.md R155). -/
def State.lowestKey (s : State) : Option Key := (List.finRange 16).find? fun k => s.key k

/-- The step's sample is used up. -/
def State.nextSample (s : State) : State := { s with inputs := s.inputs.tail, drawn := s.drawn + 1 }

/-! ## The phases of a step that all instructions share (40_step_cycle.md R95) -/

/-- Phase 1: the word at the pc, high byte first, each address modulo 4096 (R91). -/
def State.fetchWord (s : State) : Word := wordOfBytes (s.readByte s.pc.toNat) (s.readByte (s.pc.toNat + 1))

/-- Phase 2: the pc moves past the word before execution (R91). -/
def State.preIncrement (s : State) : State := { s with pc := s.pc + 2 }

/-- One tick of a timer: down by one while greater than zero (R93). -/
def tickByte (b : Byte) : Byte := if 0 < b.toNat then b - 1 else b

/-- Phase 4: both timers tick (R93). -/
def State.tick (s : State) : State := { s with dt := tickByte s.dt, st := tickByte s.st }

/-- The end of a step that began in state `s` and left `t` after the execute phase: if it raised a fault, `s` with that
code in FAULT (R95, R96), so the pc is back at the faulting instruction and no timer ticks; else the timers tick and
the sample is used up. -/
def State.settle (s t : State) : State :=
  match t.fault with
  | some f => s.raise f
  | none => t.tick.nextSample

/-! ## Placing an instruction word where the next step fetches it -/

/-- `w` at the pc, high byte first, and FAULT clear, since a faulted machine fetches nothing (R90). -/
def State.placeWord (s : State) (w : Word) : State :=
  { s.writeBytes s.pc.toNat [highByte w, lowByte w] with fault := none }

end Sys2Proof.Machine
end

