-- ==== Sys2Proof/Machine/Operands.lean ====
section
/-! DEFINITION. The operand forms: immediates, data addresses, key numbers, digits, sprite geometry. -/

namespace Sys2Proof.Machine

/-- An address immediate as a 16-bit value: zero-extended (30_encoding.md R73). -/
def zext (nnn : BitVec 12) : Word := nnn.setWidth 16

/-- A register's value as a 16-bit value: zero-extended (00_scope.md R12). -/
def zextByte (b : Byte) : Word := b.setWidth 16

/-- The memory operand [I] (43_index_memory.md R147): its byte `k` is at the unreduced I plus `k`; the access itself takes
that address modulo 4096. -/
def State.dataBase (s : State) : Nat := s.i.toNat

/-- The target of JP V0,nnn (41_control_transfer.md R107): not reduced to 12 bits (log 14). -/
def State.indexedTarget (s : State) (nnn : BitVec 12) : Word := zextByte (s.reg 0) + zext nnn

/-- FONT_BASE + 5 * V[x], from the whole byte (43_index_memory.md R142). -/
def State.glyphAddr (s : State) (x : Reg) : Word := s.cfg.fontBase + 5 * zextByte (s.reg x)

/-- The key V[x] numbers: its low four bits (44_timer_key.md R156; log 13). -/
def State.keyNumber (s : State) (x : Reg) : Key := Fin.ofNat 16 (s.reg x).toNat

/-- Hundreds, tens and ones of a byte (43_index_memory.md R143). -/
def digits (b : Byte) : List Byte :=
  [BitVec.ofNat 8 (b.toNat / 100), BitVec.ofNat 8 (b.toNat / 10 % 10), BitVec.ofNat 8 (b.toNat % 10)]

/-! ## Sprites (45_display.md R161, R162; log 12) -/

/-- A number of rows down the screen, wrapped at its edge. -/
def screenRow (y : Nat) : Fin 32 := Fin.ofNat 32 y

/-- A number of columns to the right, wrapped at the screen's edge. -/
def screenCol (x : Nat) : Fin 64 := Fin.ofNat 64 x

/-- Row `r` of the sprite is the byte at I + r. -/
def State.spriteByte (s : State) (r : Nat) : Byte := s.readByte (s.dataBase + r)

/-- Sprite pixel `c` of a row: bit 7 is the leftmost. -/
def spriteBit (b : Byte) (c : Nat) : Bool := b.getLsbD (7 - c)

/-- One sprite pixel onto the screen at row `y`, column `x`: XOR, and whether it turned a pixel off. -/
def drawPixel (y x : Nat) (on : Bool) (p : Screen × Bool) : Screen × Bool :=
  if on then (Screen.flip p.1 (screenRow y) (screenCol x), p.2 || Screen.get p.1 (screenRow y) (screenCol x)) else p

/-- The eight pixels of a sprite row. -/
def drawRow (y x : Nat) (b : Byte) (p : Screen × Bool) : Screen × Bool :=
  (List.range 8).foldl (fun p c => drawPixel y (x + c) (spriteBit b c) p) p

/-- `n` sprite rows at row `y`, column `x`: the new screen and the collision flag. -/
def State.drawSprite (s : State) (y x n : Nat) : Screen × Bool :=
  (List.range n).foldl (fun p r => drawRow (y + r) x (s.spriteByte r) p) (s.fb, false)

end Sys2Proof.Machine
end

