-- ==== Sys2Proof/Machine/Flags.lean ====
section
/-! DEFINITION. The results and flags of the ALU (42_load_alu.md R132; 10_state.md R40). -/

namespace Sys2Proof.Machine

/-- The low 8 bits of the 9-bit sum (R126). -/
def sumByte (a b : Byte) : Byte := BitVec.ofNat 8 (a.toNat + b.toNat)

/-- Bit 8 of the 9-bit sum: the sum exceeds 255 (R126). -/
def carryFlag (a b : Byte) : Bool := decide (a.toNat + b.toNat > 255)

/-- a - b modulo 256 (R132). -/
def diffByte (a b : Byte) : Byte := a - b

/-- The flag of SUB and SUBN: the minuend is strictly greater (R127, R129; 90_conflicts.md C2). -/
def greaterFlag (a b : Byte) : Bool := decide (a.toNat > b.toNat)

/-- a >> 1 (R128). -/
def halfByte (a : Byte) : Byte := a >>> 1

/-- The bit SHR shifts out (R128). -/
def lowBitFlag (a : Byte) : Bool := a.getLsbD 0

/-- (a << 1) modulo 256 (R130). -/
def doubleByte (a : Byte) : Byte := a <<< 1

/-- The bit SHL shifts out (R130). -/
def highBitFlag (a : Byte) : Bool := a.getLsbD 7

end Sys2Proof.Machine
end

