-- ==== Sys2Proof/Machine/Alu.lean ====
section
/-! DEFINITION. Register loads and the ALU (42_load_alu.md). All operands are read from `s`, the state before any write
(10_state.md R22). -/

namespace Sys2Proof.Machine

/-- LD Vx,kk (R120). -/
def execLdVxKk (x : Reg) (kk : Byte) (s : State) : Result State := .next (s.setReg x kk)

/-- ADD Vx,kk (R121): no flag. -/
def execAddVxKk (x : Reg) (kk : Byte) (s : State) : Result State := .next (s.setReg x (sumByte (s.reg x) kk))

/-- LD Vx,Vy (R122). -/
def execLdVxVy (x y : Reg) (s : State) : Result State := .next (s.setReg x (s.reg y))

/-- OR Vx,Vy (R123): no flag. -/
def execOrVxVy (x y : Reg) (s : State) : Result State := .next (s.setReg x (s.reg x ||| s.reg y))

/-- AND Vx,Vy (R124): no flag. -/
def execAndVxVy (x y : Reg) (s : State) : Result State := .next (s.setReg x (s.reg x &&& s.reg y))

/-- XOR Vx,Vy (R125): no flag. -/
def execXorVxVy (x y : Reg) (s : State) : Result State := .next (s.setReg x (s.reg x ^^^ s.reg y))

/-- ADD Vx,Vy (R126). -/
def execAddVxVy (x y : Reg) (s : State) : Result State :=
  .next (s.setRegFlag x (sumByte (s.reg x) (s.reg y)) (carryFlag (s.reg x) (s.reg y)))

/-- SUB Vx,Vy (R127). -/
def execSubVxVy (x y : Reg) (s : State) : Result State :=
  .next (s.setRegFlag x (diffByte (s.reg x) (s.reg y)) (greaterFlag (s.reg x) (s.reg y)))

/-- SHR Vx (R128): in place, Vy plays no part. -/
def execShrVx (x : Reg) (s : State) : Result State :=
  .next (s.setRegFlag x (halfByte (s.reg x)) (lowBitFlag (s.reg x)))

/-- SUBN Vx,Vy (R129). -/
def execSubnVxVy (x y : Reg) (s : State) : Result State :=
  .next (s.setRegFlag x (diffByte (s.reg y) (s.reg x)) (greaterFlag (s.reg y) (s.reg x)))

/-- SHL Vx (R130): in place, Vy plays no part. -/
def execShlVx (x : Reg) (s : State) : Result State :=
  .next (s.setRegFlag x (doubleByte (s.reg x)) (highBitFlag (s.reg x)))

/-- RND Vx,kk (R131): the random byte is an input (log 5). -/
def execRnd (x : Reg) (kk : Byte) (s : State) : Result State := .next (s.setReg x (s.rndByte &&& kk))

end Sys2Proof.Machine
end

