-- ==== Sys2Proof/Machine/Control.lean ====
section
/-! DEFINITION. Control transfer and the no-op (41_control_transfer.md, 40_step_cycle.md R94). In every meaning `s` is the
state at the start of the execute phase: its pc is already past the instruction (00_scope.md R17). -/

namespace Sys2Proof.Machine

/-- NOP (R94). -/
def execNop (s : State) : Result State := .next s

/-- RET (R100). -/
def execRet (s : State) : Result State :=
  match s.pop with
  | some (t, target) => .next (t.jump target)
  | none => .next (s.raise .stackUnderflow)

/-- JP nnn (R101). -/
def execJp (nnn : BitVec 12) (s : State) : Result State := .next (s.jump (zext nnn))

/-- CALL nnn (R102). -/
def execCall (nnn : BitVec 12) (s : State) : Result State :=
  match s.push s.pc with
  | some t => .next (t.jump (zext nnn))
  | none => .next (s.raise .stackOverflow)

/-- SE Vx,kk (R103). -/
def execSeVxKk (x : Reg) (kk : Byte) (s : State) : Result State := .next (s.skipIf (decide (s.reg x = kk)))

/-- SNE Vx,kk (R104). -/
def execSneVxKk (x : Reg) (kk : Byte) (s : State) : Result State := .next (s.skipIf (decide (s.reg x ≠ kk)))

/-- SE Vx,Vy (R105). -/
def execSeVxVy (x y : Reg) (s : State) : Result State := .next (s.skipIf (decide (s.reg x = s.reg y)))

/-- SNE Vx,Vy (R106). -/
def execSneVxVy (x y : Reg) (s : State) : Result State := .next (s.skipIf (decide (s.reg x ≠ s.reg y)))

/-- JP V0,nnn (R107). -/
def execJpV0 (nnn : BitVec 12) (s : State) : Result State := .next (s.jump (s.indexedTarget nnn))

end Sys2Proof.Machine
end

