-- ==== Sys2Proof/Machine/Display.lean ====
section
/-! DEFINITION. The display (45_display.md). -/

namespace Sys2Proof.Machine

/-- CLS (R160). -/
def execCls (s : State) : Result State := .next (s.setScreen Screen.dark)

/-- DRW Vx,Vy,n (R161): coordinates from the old registers, VF last (10_state.md R22). -/
def execDrw (x y : Reg) (n : Fin 16) (s : State) : Result State :=
  let drawn := s.drawSprite ((s.reg y).toNat % 32) ((s.reg x).toNat % 64) n.val
  .next ((s.setScreen drawn.1).setFlag drawn.2)

end Sys2Proof.Machine
end

