-- ==== Sys2Proof/Machine/Index.lean ====
section
/-! DEFINITION. The index register and the memory transfers (43_index_memory.md). None of the last three changes I (R146;
log 15). -/

namespace Sys2Proof.Machine

/-- LD I,nnn (R140). -/
def execLdI (nnn : BitVec 12) (s : State) : Result State := .next (s.setI (zext nnn))

/-- ADD I,Vx (R141): modulo 2^16, no flag (log 14). -/
def execAddIVx (x : Reg) (s : State) : Result State := .next (s.setI (s.i + zextByte (s.reg x)))

/-- LD F,Vx (R142). -/
def execLdFVx (x : Reg) (s : State) : Result State := .next (s.setI (s.glyphAddr x))

/-- LD B,Vx (R143): hundreds, tens, ones at I, I + 1, I + 2. -/
def execLdBVx (x : Reg) (s : State) : Result State := .next (s.writeBytes s.dataBase (digits (s.reg x)))

/-- LD [I],Vx (R144): V[0] to V[x] at I, I + 1, ... -/
def execLdMemVx (x : Reg) (s : State) : Result State := .next (s.writeBytes s.dataBase (s.regsUpTo x))

/-- LD Vx,[I] (R145): V[0] to V[x] from I, I + 1, ... -/
def execLdVxMem (x : Reg) (s : State) : Result State := .next (s.loadRegs x s.dataBase)

end Sys2Proof.Machine
end

