-- ==== Sys2Proof/Machine/TimerKey.lean ====
section
/-! DEFINITION. The timers and the keypad (44_timer_key.md). The tick of the step comes after these meanings
(40_step_cycle.md R93). -/

namespace Sys2Proof.Machine

/-- LD Vx,DT (R150). -/
def execLdVxDT (x : Reg) (s : State) : Result State := .next (s.setReg x s.dt)

/-- LD DT,Vx (R151). -/
def execLdDTVx (x : Reg) (s : State) : Result State := .next (s.setDT (s.reg x))

/-- LD ST,Vx (R152). -/
def execLdSTVx (x : Reg) (s : State) : Result State := .next (s.setST (s.reg x))

/-- SKP Vx (R153, R156). -/
def execSkp (x : Reg) (s : State) : Result State := .next (s.skipIf (s.key (s.keyNumber x)))

/-- SKNP Vx (R154, R156). -/
def execSknp (x : Reg) (s : State) : Result State := .next (s.skipIf (!s.key (s.keyNumber x)))

/-- LD Vx,K (R155): the lowest key down to V[x]; with none down, the same instruction again. -/
def execLdVxK (x : Reg) (s : State) : Result State :=
  .next ((s.setRegIf x (s.lowestKey.map fun k => BitVec.ofNat 8 k.val)).holdIf s.lowestKey.isNone)

end Sys2Proof.Machine
end

