-- ==== Sys2Proof/Machine/Cycle.lean ====
section
/-! DEFINITION. One step of the engine, in the order of 40_step_cycle.md R95. -/

namespace Sys2Proof.Machine

/-- The step: nothing while FAULT is set (R90; log 6); else fetch, pre-increment, execute, and `State.settle`. -/
def cycle (s : State) : Result State :=
  match s.fault with
  | some _ => .next s
  | none =>
    match exec (decodeWord s.fetchWord) s.preIncrement with
    | .next t => .next (s.settle t)
    | .fault r => .fault r
    | .refused r => .refused r

end Sys2Proof.Machine
end

