-- ==== Sys2Proof/Machine/Step.lean ====
section
/-! DEFINITION. The step of the machine, and how the host places an instruction where it is fetched. -/

namespace Sys2Proof.Machine

/-- One step (40_step_cycle.md R90, R95). -/
def step (s : State) : Host.Outcome State Fault Refusal := cycle s

/-- `s` with the word `w` of `nbits` bits where the next step fetches, FAULT clear (log 16, 20). -/
def State.withFetchWord (s : State) (nbits w : Nat) : State := s.placeWord (BitVec.ofNat 16 (w % 2 ^ nbits))

end Sys2Proof.Machine
end

