-- ==== Sys2Proof/Machine/Ports.lean ====
section
/-! DEFINITION. The engine's interface to the host (70_reset_and_hazards.md R190 to R208; 10_state.md R36): reset, load,
input, outputs. The host acts between steps only (log 19). -/

namespace Sys2Proof.Machine

/-- The reset line (R190, R191): the same state each time for a configuration, the loaded program gone, FAULT clear. The
inputs are the host's and are not reset (R192; log 17). -/
def State.hostReset (s : State) : State := { State.resetWith s.cfg with inputs := s.inputs, drawn := s.drawn }

/-- Why a load failed (R197). No machine fault. -/
inductive LoadError where
  /-- The image is longer than the memory from PROG_BASE up. Safe: no run from a refused load. -/
  | oversized
  deriving DecidableEq, Repr

/-- The load port (R195, R197): the image to PROG_BASE upward, nothing else; an oversized image is refused whole. -/
def State.loadImage (s : State) (image : List Byte) : Except LoadError State :=
  if s.cfg.imageFits image then .ok (s.writeBytes s.cfg.progBase.toNat image) else .error .oversized

/-- How a program comes to run (R198, R199; log 16): one load, right after reset, before the first step. The host has no
other load. -/
def State.boot (c : Config) (image : List Byte) : Except LoadError State := (State.resetWith c).loadImage image

/-- The host presents one more sample (R203; log 5). -/
def State.feed (s : State) (x : Sample) : State := { s with inputs := s.inputs ++ [x] }

/-- The output FAULT[1:0] (10_state.md R30). -/
def State.faultCode (s : State) : BitVec 2 :=
  match s.fault with
  | none => 0
  | some .stackOverflow => 1
  | some .stackUnderflow => 2

/-- The output sound_active (R29, R36). -/
def State.soundActive (s : State) : Bool := decide (s.st.toNat > 0)

/-- The machine is waiting exactly when the word at pc is LD Vx,K and no key is down (10_state.md R37). -/
def State.waiting (s : State) : Bool :=
  match decodeWord s.fetchWord with
  | .ldVxK _ => s.lowestKey.isNone
  | _ => false

end Sys2Proof.Machine
end

