-- ==== Sys2Proof/Safety.lean ====
section
/-! DEFINITION. The terms the claims use: the parts of a state and what may change them, the invariant, safe runs, and when
two states look the same to a program. -/

namespace Sys2Proof.Machine

/-! ## Frames -/

/-- The parts of a state: every piece of it is one of them. -/
inductive Part where
  | reg (r : Reg)
  | index
  | pc
  | stackEntry (k : Fin 16)
  | sp
  | delayTimer
  | soundTimer
  /-- the memory cell an address reaches; addresses equal modulo 4096 are the same part -/
  | byte (a : Nat)
  | pixel (r : Fin 32) (c : Fin 64)
  | faultLatch
  | config
  | inputs
  deriving DecidableEq, Repr

/-- A part is the same in two states. Memory is compared by what a read of the byte gives. -/
def Part.same : Part → State → State → Prop
  | .reg r, s, t => t.reg r = s.reg r
  | .index, s, t => t.i = s.i
  | .pc, s, t => t.pc = s.pc
  | .stackEntry k, s, t => t.stack[k] = s.stack[k]
  | .sp, s, t => t.sp = s.sp
  | .delayTimer, s, t => t.dt = s.dt
  | .soundTimer, s, t => t.st = s.st
  | .byte a, s, t => t.readByte a = s.readByte a
  | .pixel r c, s, t => t.pixel r c = s.pixel r c
  | .faultLatch, s, t => t.fault = s.fault
  | .config, s, t => t.cfg = s.cfg
  | .inputs, s, t => t.inputs = s.inputs ∧ t.drawn = s.drawn

/-- From `s` to `t` nothing changed outside the parts `written`: every register, stack entry, timer, byte of memory and
pixel not named there is as before. -/
def ChangesOnly (written : Part → Prop) (s t : State) : Prop := ∀ p, ¬ written p → p.same s t

/-- The cells `n` bytes from the address `a` on land in. -/
def BytesFrom (a n : Nat) (p : Part) : Prop := ∃ b, p = .byte b ∧ ∃ k < n, b % 4096 = (a + k) % 4096

/-- The instruction the next step of a running machine executes. -/
def State.nextInstr (s : State) : Instr := decodeWord s.fetchWord

/-! ## The footprint of the instructions in the register file (10_state.md R22, R40) -/

/-- The six instructions that write VF as a flag (R40). -/
def writesFlag : Instr → Bool
  | .addVxVy _ _ | .subVxVy _ _ | .shrVx _ | .subnVxVy _ _ | .shlVx _ | .drw _ _ _ => true
  | .cls | .ret | .jp _ | .call _ | .seVxKk _ _ | .sneVxKk _ _ | .seVxVy _ _ | .ldVxKk _ _ | .addVxKk _ _ => false
  | .ldVxVy _ _ | .orVxVy _ _ | .andVxVy _ _ | .xorVxVy _ _ | .sneVxVy _ _ | .ldI _ | .jpV0 _ | .rnd _ _ => false
  | .skp _ | .sknp _ | .ldVxDT _ | .ldVxK _ | .ldDTVx _ | .ldSTVx _ | .addIVx _ | .ldFVx _ | .ldBVx _ => false
  | .ldMemVx _ | .ldVxMem _ | .nop => false

/-- Whether register `r` is a destination of the instruction, its flag left aside. -/
def hasDest : Instr → Reg → Bool
  | .ldVxKk x _, r | .addVxKk x _, r | .rnd x _, r => r == x
  | .ldVxVy x _, r | .orVxVy x _, r | .andVxVy x _, r | .xorVxVy x _, r => r == x
  | .addVxVy x _, r | .subVxVy x _, r | .subnVxVy x _, r => r == x
  | .shrVx x, r | .shlVx x, r => r == x
  | .ldVxDT x, r | .ldVxK x, r => r == x
  | .ldVxMem x, r => decide (r ≤ x)
  | .cls, _ | .ret, _ | .jp _, _ | .call _, _ | .ldI _, _ | .jpV0 _, _ | .nop, _ => false
  | .seVxKk _ _, _ | .sneVxKk _ _, _ | .seVxVy _ _, _ | .sneVxVy _ _, _ | .skp _, _ | .sknp _, _ => false
  | .drw _ _ _, _ | .ldDTVx _, _ | .ldSTVx _, _ | .addIVx _, _ | .ldFVx _, _ | .ldBVx _, _ | .ldMemVx _, _ => false

/-! ## Sprites -/

/-- Pixel (R, C) is under a 1 bit of the `n`-row sprite at [I], drawn from column Vx, row Vy (45_display.md R161, R162):
some row `r` and column `c` of the sprite, its bit 7 the leftmost, land there, wrapped at both edges. -/
def State.spriteCovers (s : State) (x y : Reg) (n : Nat) (R : Fin 32) (C : Fin 64) : Prop :=
  ∃ r < n, ∃ c < 8, R.val = ((s.reg y).toNat % 32 + r) % 32 ∧ C.val = ((s.reg x).toNat % 64 + c) % 64 ∧
    (s.readByte (s.dataBase + r)).getLsbD (7 - c) = true

/-! ## The invariant -/

/-- What every reachable state meets: the configuration is a legal one (00_scope.md R8) and memory is in canonical form
(log 10). (SP in 0..16 and FAULT in 0..2 hold by their types, log 9.) -/
def StateInv (s : State) : Prop := s.cfg.wellFormed = true ∧ Memory.wf s.cfg s.mem = true

/-! ## Runs -/

/-- `k` steps lead from `s` to `t`. -/
def Runs (k : Nat) (s t : State) : Prop := Sys2Proof.core.run k s = .next t

/-- A safe run: `k` steps, and no fault is latched at their end (so none was on the way, 60_exceptions.md R177). -/
def SafeRun (k : Nat) (s : State) : Prop := ∃ t, Runs k s t ∧ t.fault = none

/-! ## What a program cannot tell apart -/

/-- Equal but for multiples of 4096 in pc, I and the saved pcs (10_state.md R23; 90_conflicts.md C7). -/
def Alias (s t : State) : Prop :=
  t.pc.toNat % 4096 = s.pc.toNat % 4096 ∧ t.i.toNat % 4096 = s.i.toNat % 4096 ∧
  (∀ k : Fin 16, t.stack[k].toNat % 4096 = s.stack[k].toNat % 4096) ∧
  { t with pc := s.pc, i := s.i, stack := s.stack } = s

/-- Equal but for the inputs. -/
def SameButInputs (s t : State) : Prop := { t with inputs := s.inputs, drawn := s.drawn } = s

/-- The four instructions that see an input (10_state.md R34, R35). -/
def readsInput : Instr → Bool
  | .rnd _ _ | .skp _ | .sknp _ | .ldVxK _ => true
  | .cls | .ret | .jp _ | .call _ | .seVxKk _ _ | .sneVxKk _ _ | .seVxVy _ _ | .ldVxKk _ _ | .addVxKk _ _ => false
  | .ldVxVy _ _ | .orVxVy _ _ | .andVxVy _ _ | .xorVxVy _ _ | .addVxVy _ _ | .subVxVy _ _ | .shrVx _ => false
  | .subnVxVy _ _ | .shlVx _ | .sneVxVy _ _ | .ldI _ | .jpV0 _ | .drw _ _ _ | .ldVxDT _ | .ldDTVx _ => false
  | .ldSTVx _ | .addIVx _ | .ldFVx _ | .ldBVx _ | .ldMemVx _ | .ldVxMem _ | .nop => false

end Sys2Proof.Machine
end

