-- ==== Sys2Proof/Certificates/Slice0/Obligations.lean ====
section
/-! DEFINITION. The statements for the provers. In a statement about `exec` the state `s` is the one at the start of the
execute phase: its pc is already past the instruction (00_scope.md R17). A statement that a decision of the spec's own
(92_eei_decisions.md) or of the model's (notes/assumptions) carries says so. -/

open Sys2Proof Sys2Proof.Machine

/-! ## Reset, load, the host -/

/-- 70_reset_and_hazards.md R190: what reset leaves, for every legal configuration. (FAULT is the spec's own latch, D8.) -/
def Obligations.ResetLeavesTheSpecValues : Prop :=
  ∀ c : Config, c.wellFormed = true →
    (∀ r, (State.resetWith c).reg r = 0) ∧ (State.resetWith c).i = 0 ∧ (State.resetWith c).pc = c.progBase ∧
    (∀ k : Fin 16, (State.resetWith c).stack[k] = 0) ∧ (State.resetWith c).sp = 0 ∧
    (State.resetWith c).dt = 0 ∧ (State.resetWith c).st = 0 ∧ (State.resetWith c).fault = none ∧
    (∀ R C, (State.resetWith c).pixel R C = false) ∧
    (∀ (d : Fin 16) (k : Fin 5), (State.resetWith c).readByte (c.fontBase.toNat + 5 * d.val + k.val) = c.fontset[d][k]) ∧
    (∀ a < 4096, a < c.fontBase.toNat ∨ c.fontBase.toNat + 80 ≤ a → (State.resetWith c).readByte a = 0)

/-- The invariant holds right after reset. -/
def Obligations.ResetMeetsTheInvariant : Prop :=
  StateInv State.reset ∧ ∀ c : Config, c.wellFormed = true → StateInv (State.resetWith c)

/-- The reset line gives the reset state again and leaves only the host's inputs (decision D24, R191, R192; log 17). -/
def Obligations.HostResetRestoresTheResetState : Prop :=
  ∀ s : State, ChangesOnly (· = .inputs) (State.resetWith s.cfg) s.hostReset ∧ Part.inputs.same s s.hostReset

/-- The load port, R195 to R198 (refusing an oversized image is the spec's decision D17; log 16): an image that fits
stands at PROG_BASE upward and nothing else changes; a longer one is refused. -/
def Obligations.BootLoadsTheImageOrRefusesIt : Prop :=
  ∀ (c : Config) (image : List Byte), c.wellFormed = true →
    (image.length ≤ 4096 - c.progBase.toNat →
      ∃ t, State.boot c image = .ok t ∧
        (∀ (j : Nat) (h : j < image.length), t.readByte (c.progBase.toNat + j) = image[j]) ∧
        ChangesOnly (BytesFrom c.progBase.toNat image.length) (State.resetWith c) t) ∧
    (4096 - c.progBase.toNat < image.length → State.boot c image = .error .oversized)

/-- Placing a word: the next step of `s.withFetchWord 16 w` runs the instruction of `w`, and only the two bytes at the pc
and the fault latch may differ (log 16, 20). -/
def Obligations.PlacedWordRunsNext : Prop :=
  ∀ (s : State) (w : Nat), StateInv s →
    (s.withFetchWord 16 w).nextInstr = decodeWord (BitVec.ofNat 16 w) ∧
    decodeTableWord 16 w = some (s.withFetchWord 16 w).nextInstr ∧
    (s.withFetchWord 16 w).fault = none ∧
    ChangesOnly (fun p => BytesFrom s.pc.toNat 2 p ∨ p = .faultLatch) s (s.withFetchWord 16 w)

/-! ## Decoding (the pairing of keys with operations and the places of x and y are the spec's decisions D4, D5; log 11) -/

/-- Decoding an instruction's word, or its bytes, gives it back. -/
def Obligations.DecodeOfEncodeIsIdentity : Prop :=
  ∀ i : Instr, i.wellFormed = true →
    decodeWord (encode i) = i ∧ ∀ rest, decode (encodeBytes i ++ rest) = .ok (i, rest)

/-- 30_encoding.md R82: every word decodes as the one row of the opcode table that matches it; where none does, it is a
NOP. -/
def Obligations.DecodeFollowsTheOpcodeTable : Prop :=
  ∀ w : Word,
    (∀ row ∈ opcodeTable, (w &&& row.mask = row.pattern ↔ (decodeWord w).mnemonic = row.mnemonic)) ∧
    (decodeWord w = .nop ↔ ∀ row ∈ opcodeTable, w &&& row.mask ≠ row.pattern)

/-- 30_encoding.md R71, R80, R82: each pattern with its operands at every value and its ignored bits (`g`, `gg`) at any. -/
def Obligations.PatternsDecodeWithTheirOperands : Prop :=
  ∀ (x y n g : Fin 16) (gg : Fin 256) (kk : Byte) (nnn : BitVec 12),
    decodeWord (BitVec.ofNat 16 (0x0000 + gg.val * 0x10)) = .cls ∧
    decodeWord (BitVec.ofNat 16 (0x000E + gg.val * 0x10)) = .ret ∧
    decodeWord (BitVec.ofNat 16 (0x1000 + nnn.toNat)) = .jp nnn ∧
    decodeWord (BitVec.ofNat 16 (0x2000 + nnn.toNat)) = .call nnn ∧
    decodeWord (BitVec.ofNat 16 (0x3000 + x.val * 0x100 + kk.toNat)) = .seVxKk x kk ∧
    decodeWord (BitVec.ofNat 16 (0x4000 + x.val * 0x100 + kk.toNat)) = .sneVxKk x kk ∧
    decodeWord (BitVec.ofNat 16 (0x5000 + x.val * 0x100 + y.val * 0x10 + g.val)) = .seVxVy x y ∧
    decodeWord (BitVec.ofNat 16 (0x6000 + x.val * 0x100 + kk.toNat)) = .ldVxKk x kk ∧
    decodeWord (BitVec.ofNat 16 (0x7000 + x.val * 0x100 + kk.toNat)) = .addVxKk x kk ∧
    decodeWord (BitVec.ofNat 16 (0x8000 + x.val * 0x100 + y.val * 0x10)) = .ldVxVy x y ∧
    decodeWord (BitVec.ofNat 16 (0x8001 + x.val * 0x100 + y.val * 0x10)) = .orVxVy x y ∧
    decodeWord (BitVec.ofNat 16 (0x8002 + x.val * 0x100 + y.val * 0x10)) = .andVxVy x y ∧
    decodeWord (BitVec.ofNat 16 (0x8003 + x.val * 0x100 + y.val * 0x10)) = .xorVxVy x y ∧
    decodeWord (BitVec.ofNat 16 (0x8004 + x.val * 0x100 + y.val * 0x10)) = .addVxVy x y ∧
    decodeWord (BitVec.ofNat 16 (0x8005 + x.val * 0x100 + y.val * 0x10)) = .subVxVy x y ∧
    decodeWord (BitVec.ofNat 16 (0x8006 + x.val * 0x100 + g.val * 0x10)) = .shrVx x ∧
    decodeWord (BitVec.ofNat 16 (0x8007 + x.val * 0x100 + y.val * 0x10)) = .subnVxVy x y ∧
    decodeWord (BitVec.ofNat 16 (0x800E + x.val * 0x100 + g.val * 0x10)) = .shlVx x ∧
    decodeWord (BitVec.ofNat 16 (0x9000 + x.val * 0x100 + y.val * 0x10 + g.val)) = .sneVxVy x y ∧
    decodeWord (BitVec.ofNat 16 (0xA000 + nnn.toNat)) = .ldI nnn ∧
    decodeWord (BitVec.ofNat 16 (0xB000 + nnn.toNat)) = .jpV0 nnn ∧
    decodeWord (BitVec.ofNat 16 (0xC000 + x.val * 0x100 + kk.toNat)) = .rnd x kk ∧
    decodeWord (BitVec.ofNat 16 (0xD000 + x.val * 0x100 + y.val * 0x10 + n.val)) = .drw x y n ∧
    decodeWord (BitVec.ofNat 16 (0xE00E + x.val * 0x100 + g.val * 0x10)) = .skp x ∧
    decodeWord (BitVec.ofNat 16 (0xE001 + x.val * 0x100 + g.val * 0x10)) = .sknp x ∧
    decodeWord (BitVec.ofNat 16 (0xF007 + x.val * 0x100)) = .ldVxDT x ∧
    decodeWord (BitVec.ofNat 16 (0xF00A + x.val * 0x100)) = .ldVxK x ∧
    decodeWord (BitVec.ofNat 16 (0xF015 + x.val * 0x100)) = .ldDTVx x ∧
    decodeWord (BitVec.ofNat 16 (0xF018 + x.val * 0x100)) = .ldSTVx x ∧
    decodeWord (BitVec.ofNat 16 (0xF01E + x.val * 0x100)) = .addIVx x ∧
    decodeWord (BitVec.ofNat 16 (0xF029 + x.val * 0x100)) = .ldFVx x ∧
    decodeWord (BitVec.ofNat 16 (0xF033 + x.val * 0x100)) = .ldBVx x ∧
    decodeWord (BitVec.ofNat 16 (0xF055 + x.val * 0x100)) = .ldMemVx x ∧
    decodeWord (BitVec.ofNat 16 (0xF065 + x.val * 0x100)) = .ldVxMem x

/-- 30_encoding.md R78: exactly these words are no-ops. -/
def Obligations.NopWordsAreExactlyTheUnassigned : Prop :=
  ∀ w : Word, decodeWord w = .nop ↔
    (w.toNat / 0x1000 = 0x0 ∧ w.toNat % 0x10 ∉ [0x0, 0xE]) ∨
    (w.toNat / 0x1000 = 0x8 ∧ w.toNat % 0x10 ∈ [0x8, 0x9, 0xA, 0xB, 0xC, 0xD, 0xF]) ∨
    (w.toNat / 0x1000 = 0xE ∧ w.toNat % 0x10 ∉ [0x1, 0xE]) ∨
    (w.toNat / 0x1000 = 0xF ∧ w.toNat % 0x100 ∉ [0x07, 0x0A, 0x15, 0x18, 0x1E, 0x29, 0x33, 0x55, 0x65])

/-- A few words written out from 30_encoding.md R82 (sanity). -/
def Obligations.WrittenOutWordsDecode : Prop :=
  decodeWord 0b0000_0000_1110_0000 = .cls ∧ decodeWord 0b0000_0000_1110_1110 = .ret ∧
  decodeWord 0b0001_0010_0011_0100 = .jp 0x234 ∧ decodeWord 0b0110_0000_0000_0101 = .ldVxKk 0 0x05 ∧
  decodeWord 0b1000_0001_0000_0000 = .ldVxVy 1 0 ∧ decodeWord 0b1101_0001_0010_0101 = .drw 1 2 5 ∧
  decodeWord 0b1110_0001_1001_1110 = .skp 1 ∧ decodeWord 0b1111_0010_0110_0101 = .ldVxMem 2 ∧
  decodeWord 0b0000_0000_0000_0001 = .nop

/-! ## The step -/

/-- 40_step_cycle.md R95: a step fetches two bytes, high byte first, each address modulo 4096, moves the pc past them,
runs the meaning of the instruction they decode to, and ticks the timers; a raised fault leaves the state the step
began in but for FAULT (the fault path is the spec's decision D8; that a sample is used is log 5). -/
def Obligations.StepRunsTheDecodedInstruction : Prop :=
  ∀ (s t : State) (i : Instr), s.fault = none →
    decode [s.readByte (s.pc.toNat % 4096), s.readByte ((s.pc.toNat + 1) % 4096)] = .ok (i, []) →
    exec i { s with pc := s.pc + 2 } = .next t →
    (t.fault = none → step s = .next
      { t with dt := if 0 < t.dt.toNat then t.dt - 1 else t.dt, st := if 0 < t.st.toNat then t.st - 1 else t.st,
               inputs := t.inputs.tail, drawn := t.drawn + 1 }) ∧
    (∀ f, t.fault = some f → step s = .next { s with fault := some f })

/-- 40_step_cycle.md R90 (D8): a step always answers a next state; while FAULT is set that state is the old one. -/
def Obligations.StepIsTotalAndStopsOnFault : Prop :=
  ∀ s : State, (∃ t, step s = .next t) ∧ (s.fault ≠ none → step s = .next s)

/-- 60_exceptions.md R177 (D8): however many steps follow, a faulted machine stays as it is; so a run that ends without a
fault had none on the way. -/
def Obligations.FaultIsStickyAlongRuns : Prop :=
  (∀ (k : Nat) (s : State), s.fault ≠ none → Runs k s s) ∧
  (∀ (j k : Nat) (s : State), j ≤ k → SafeRun k s → SafeRun j s)

/-- 60_exceptions.md R170 to R172, R176 (D6, D7, D8): a running machine's step faults exactly for CALL with a full stack
and RET with an empty one, and then changes nothing but FAULT. -/
def Obligations.FaultsAreExactlyOverflowAndUnderflow : Prop :=
  ∀ s t : State, s.fault = none → step s = .next t →
    (t.fault = some .stackOverflow ↔ (∃ nnn, s.nextInstr = .call nnn) ∧ s.sp.val = 16) ∧
    (t.fault = some .stackUnderflow ↔ s.nextInstr = .ret ∧ s.sp.val = 0) ∧
    (t.fault ≠ none → ChangesOnly (· = .faultLatch) s t)

/-- 40_step_cycle.md R93: each step of a running machine takes one from a timer above zero and leaves one at zero, after
the instruction has had its effect on it. -/
def Obligations.TimersTickOncePerStep : Prop :=
  ∀ s t : State, s.fault = none → step s = .next t → t.fault = none →
    t.dt.toNat = (match s.nextInstr with | .ldDTVx x => (s.reg x).toNat | _ => s.dt.toNat) - 1 ∧
    t.st.toNat = (match s.nextInstr with | .ldSTVx x => (s.reg x).toNat | _ => s.st.toNat) - 1

/-- 10_state.md R24 (derived there; D9, D13): where each instruction leaves the pc, from the address it was fetched at. -/
def Obligations.PcAfterEveryStep : Prop :=
  ∀ s t : State, s.fault = none → step s = .next t → t.fault = none →
    t.pc = match s.nextInstr with
      | .jp nnn | .call nnn => nnn.setWidth 16
      | .ret => s.stack[Fin.ofNat 16 (s.sp.val - 1)]
      | .jpV0 nnn => (s.reg 0).setWidth 16 + nnn.setWidth 16
      | .seVxKk x kk => if s.reg x = kk then s.pc + 4 else s.pc + 2
      | .sneVxKk x kk => if s.reg x = kk then s.pc + 2 else s.pc + 4
      | .seVxVy x y => if s.reg x = s.reg y then s.pc + 4 else s.pc + 2
      | .sneVxVy x y => if s.reg x = s.reg y then s.pc + 2 else s.pc + 4
      | .skp x => if s.sample.keys[Fin.ofNat 16 (s.reg x).toNat] = true then s.pc + 4 else s.pc + 2
      | .sknp x => if s.sample.keys[Fin.ofNat 16 (s.reg x).toNat] = true then s.pc + 2 else s.pc + 4
      | .ldVxK _ => if s.lowestKey = none then s.pc else s.pc + 2
      | _ => s.pc + 2

/-- 10_state.md R26, R27: only CALL and RET touch STACK and SP. -/
def Obligations.OnlyCallAndRetTouchTheStack : Prop :=
  ∀ s t : State, step s = .next t → (∀ nnn, s.nextInstr ≠ .call nnn) →
    t.stack = s.stack ∧ (s.nextInstr ≠ .ret → t.sp = s.sp)

/-- 20_memory.md R52: only LD B,Vx and LD [I],Vx store to memory. -/
def Obligations.OnlyTwoInstructionsStore : Prop :=
  ∀ s t : State, step s = .next t → (∀ x, s.nextInstr ≠ .ldBVx x) → (∀ x, s.nextInstr ≠ .ldMemVx x) →
    ∀ a, t.readByte a = s.readByte a

/-- 10_state.md R33: only CLS and DRW write the framebuffer. -/
def Obligations.OnlyClsAndDrwChangePixels : Prop :=
  ∀ s t : State, step s = .next t → s.nextInstr ≠ .cls → (∀ x y n, s.nextInstr ≠ .drw x y n) →
    ∀ R C, t.pixel R C = s.pixel R C

/-- 10_state.md R25, 43_index_memory.md R146 (D18): only LD I, ADD I and LD F write I. -/
def Obligations.OnlyThreeInstructionsWriteI : Prop :=
  ∀ s t : State, step s = .next t → (∀ nnn, s.nextInstr ≠ .ldI nnn) → (∀ x, s.nextInstr ≠ .addIVx x) →
    (∀ x, s.nextInstr ≠ .ldFVx x) → t.i = s.i

/-- 10_state.md R40: the six flag writers leave 0 or 1 in VF; every other instruction changes a register only as one of
its destinations. -/
def Obligations.RegistersChangeOnlyAsDestinationOrFlag : Prop :=
  ∀ s t : State, s.fault = none → step s = .next t →
    (writesFlag s.nextInstr = true → t.reg vf = 0 ∨ t.reg vf = 1) ∧
    (∀ r, hasDest s.nextInstr r = false → (writesFlag s.nextInstr = true → r ≠ vf) → t.reg r = s.reg r)

/-- The model's own fields (log 1, 5): no step changes the configuration, and a step that completes uses one sample. -/
def Obligations.ConfigStaysAndOneSampleIsUsed : Prop :=
  ∀ s t : State, step s = .next t →
    t.cfg = s.cfg ∧ (s.fault = none → t.fault = none → t.inputs = s.inputs.tail ∧ t.drawn = s.drawn + 1)

/-- Every step keeps the invariant: a legal configuration, and memory in its canonical form. -/
def Obligations.StepKeepsTheInvariant : Prop :=
  ∀ s t : State, StateInv s → step s = .next t → StateInv t

/-- 10_state.md R23 (D9, D10; 90_conflicts.md C7): two machines that differ by multiples of 4096 in pc, I and saved pcs
step alike, and differ so afterwards: no program can tell them apart. -/
def Obligations.AliasedMachinesStepAlike : Prop :=
  ∀ s t s' : State, Alias s t → step s = .next s' → ∃ t', step t = .next t' ∧ Alias s' t'

/-- 10_state.md R34, R35: only RND, SKP, SKNP and LD Vx,K see the inputs; for any other instruction two machines that
differ in the inputs alone differ in them alone afterwards. (How the inputs are held is log 5.) -/
def Obligations.OnlyFourInstructionsSeeTheInputs : Prop :=
  ∀ s t s' : State, SameButInputs s t → readsInput s.nextInstr = false → step s = .next s' →
    ∃ t', step t = .next t' ∧ SameButInputs s' t'

/-- 60_exceptions.md R178, 70_reset_and_hazards.md R204 (derived from R93): along a run that sets no delay timer, after `k`
steps the timer is `k` lower, or 0. -/
def Obligations.DelayTimerCountsStepsDown : Prop :=
  ∀ (k : Nat) (s t : State), Runs k s t → t.fault = none →
    (∀ j < k, ∀ u, Runs j s u → ∀ x, u.nextInstr ≠ .ldDTVx x) → t.dt.toNat = s.dt.toNat - k

/-- 20_memory.md R63: an instruction stored over the next one is the next one executed. -/
def Obligations.StoredInstructionIsFetchedNext : Prop :=
  ∀ (s : State) (x : Reg), StateInv s → s.fault = none → s.nextInstr = .ldMemVx x → 1 ≤ x.val →
    s.i.toNat % 4096 = (s.pc.toNat + 2) % 4096 →
    ∃ t, step s = .next t ∧ t.nextInstr = decodeWord (s.reg 0 ++ s.reg 1)

/-! ## Control transfer -/

/-- 40_step_cycle.md R94: the execute phase does nothing, so the step moves the pc and ticks the timers, no more (that a
sample is used is log 5). -/
def Obligations.NopDoesNothing : Prop :=
  ∀ s : State, exec .nop s = .next s ∧
    (s.fault = none → s.nextInstr = .nop → ∃ t, step s = .next t ∧ t.pc = s.pc + 2 ∧ t.dt.toNat = s.dt.toNat - 1 ∧
      t.st.toNat = s.st.toNat - 1 ∧
      ChangesOnly (fun p => p = .pc ∨ p = .delayTimer ∨ p = .soundTimer ∨ p = .inputs) s t)

/-- 41_control_transfer.md R101. -/
def Obligations.JpSetsThePc : Prop :=
  ∀ (s : State) (nnn : BitVec 12),
    ∃ t, exec (.jp nnn) s = .next t ∧ t.pc.toNat = nnn.toNat ∧ ChangesOnly (· = .pc) s t

/-- 41_control_transfer.md R107 (that the sum is not reduced is the decision D9; log 14). -/
def Obligations.JpV0AddsRegisterZero : Prop :=
  ∀ (s : State) (nnn : BitVec 12),
    ∃ t, exec (.jpV0 nnn) s = .next t ∧ t.pc.toNat = (s.reg 0).toNat + nnn.toNat ∧ ChangesOnly (· = .pc) s t

/-- 41_control_transfer.md R102: with room on the stack CALL pushes the pc, already past the CALL, and jumps. (With none
it faults, D6: `CallAndRetFaultAtTheEnds`.) -/
def Obligations.CallPushesAndJumps : Prop :=
  ∀ (s : State) (nnn : BitVec 12), s.sp.val < 16 →
    ∃ t, exec (.call nnn) s = .next t ∧ t.pc.toNat = nnn.toNat ∧ t.sp.val = s.sp.val + 1 ∧
      t.stack[Fin.ofNat 16 s.sp.val] = s.pc ∧
      ChangesOnly (fun p => p = .pc ∨ p = .sp ∨ p = .stackEntry (Fin.ofNat 16 s.sp.val)) s t

/-- 41_control_transfer.md R100: with an entry on the stack RET pops it into the pc, and the entry keeps its value. (With
none it faults, D7: `CallAndRetFaultAtTheEnds`.) -/
def Obligations.RetPopsIntoThePc : Prop :=
  ∀ s : State, 0 < s.sp.val →
    ∃ t, exec .ret s = .next t ∧ t.sp.val = s.sp.val - 1 ∧ t.pc = s.stack[Fin.ofNat 16 (s.sp.val - 1)] ∧
      ChangesOnly (fun p => p = .pc ∨ p = .sp) s t

/-- 60_exceptions.md R170, R171, 40_step_cycle.md R96 (D6, D7, D8): the step of a CALL with SP = 16 changes FAULT to
StackOverflow, code 1, and that of a RET with SP = 0 changes it to StackUnderflow, code 2; the pc stays at the
instruction and no timer ticks. -/
def Obligations.CallAndRetFaultAtTheEnds : Prop :=
  ∀ s : State, s.fault = none →
    (∀ nnn, s.nextInstr = .call nnn → s.sp.val = 16 →
      step s = .next { s with fault := some .stackOverflow } ∧
        State.faultCode { s with fault := some .stackOverflow } = 1) ∧
    (s.nextInstr = .ret → s.sp.val = 0 →
      step s = .next { s with fault := some .stackUnderflow } ∧
        State.faultCode { s with fault := some .stackUnderflow } = 2)

/-- 41_control_transfer.md R100: "CALL immediately followed by RET restores the program counter to the instruction
immediately after the CALL, for any of the 16 nesting levels." -/
def Obligations.CallThenRetReturns : Prop :=
  ∀ (s : State) (nnn : BitVec 12), s.fault = none → s.sp.val < 16 → s.nextInstr = .call nnn →
    decodeWord (wordOfBytes (s.readByte nnn.toNat) (s.readByte (nnn.toNat + 1))) = .ret →
    ∃ t u, step s = .next t ∧ step t = .next u ∧ u.pc = s.pc + 2 ∧ u.sp = s.sp ∧ u.fault = none ∧
      u.stack[Fin.ofNat 16 s.sp.val] = s.pc + 2

/-- 41_control_transfer.md R103 to R106, R109: the four skips on values add 2 to the pc when their condition holds and do
nothing else. -/
def Obligations.SkipsOnValuesMoveOnlyThePc : Prop :=
  ∀ (s : State) (x y : Reg) (kk : Byte),
    exec (.seVxKk x kk) s = .next { s with pc := if s.reg x = kk then s.pc + 2 else s.pc } ∧
    exec (.sneVxKk x kk) s = .next { s with pc := if s.reg x = kk then s.pc else s.pc + 2 } ∧
    exec (.seVxVy x y) s = .next { s with pc := if s.reg x = s.reg y then s.pc + 2 else s.pc } ∧
    exec (.sneVxVy x y) s = .next { s with pc := if s.reg x = s.reg y then s.pc else s.pc + 2 }

/-- 44_timer_key.md R153, R154, and R156's low four bits, the spec's decision D13 (log 13). -/
def Obligations.SkipsOnKeysMoveOnlyThePc : Prop :=
  ∀ (s : State) (x : Reg) (k : Key), k.val = (s.reg x).toNat % 16 →
    exec (.skp x) s = .next { s with pc := if s.sample.keys[k] = true then s.pc + 2 else s.pc } ∧
    exec (.sknp x) s = .next { s with pc := if s.sample.keys[k] = true then s.pc else s.pc + 2 }

/-! ## Loads and the ALU -/

/-- 42_load_alu.md R120, R122, 44_timer_key.md R150. -/
def Obligations.LoadsWriteOnlyTheirRegister : Prop :=
  ∀ (s : State) (x y : Reg) (kk : Byte),
    (∃ t, exec (.ldVxKk x kk) s = .next t ∧ t.reg x = kk ∧ ChangesOnly (· = .reg x) s t) ∧
    (∃ t, exec (.ldVxVy x y) s = .next t ∧ t.reg x = s.reg y ∧ ChangesOnly (· = .reg x) s t) ∧
    (∃ t, exec (.ldVxDT x) s = .next t ∧ t.reg x = s.dt ∧ ChangesOnly (· = .reg x) s t)

/-- 42_load_alu.md R121: modulo 256, no flag. -/
def Obligations.AddImmediateWritesNoFlag : Prop :=
  ∀ (s : State) (x : Reg) (kk : Byte),
    ∃ t, exec (.addVxKk x kk) s = .next t ∧ (t.reg x).toNat = ((s.reg x).toNat + kk.toNat) % 256 ∧
      ChangesOnly (· = .reg x) s t

/-- 42_load_alu.md R123 to R125: bit by bit, no flag. -/
def Obligations.LogicOperationsWriteNoFlag : Prop :=
  ∀ (s : State) (x y : Reg),
    (∃ t, exec (.orVxVy x y) s = .next t ∧
      (∀ k < 8, (t.reg x).getLsbD k = ((s.reg x).getLsbD k || (s.reg y).getLsbD k)) ∧ ChangesOnly (· = .reg x) s t) ∧
    (∃ t, exec (.andVxVy x y) s = .next t ∧
      (∀ k < 8, (t.reg x).getLsbD k = ((s.reg x).getLsbD k && (s.reg y).getLsbD k)) ∧ ChangesOnly (· = .reg x) s t) ∧
    (∃ t, exec (.xorVxVy x y) s = .next t ∧
      (∀ k < 8, (t.reg x).getLsbD k = ((s.reg x).getLsbD k ^^ (s.reg y).getLsbD k)) ∧ ChangesOnly (· = .reg x) s t)

/-- 42_load_alu.md R126, with the flag last (10_state.md R22). -/
def Obligations.AddSetsCarryLast : Prop :=
  ∀ (s : State) (x y : Reg),
    ∃ t, exec (.addVxVy x y) s = .next t ∧
      t.reg vf = (if (s.reg x).toNat + (s.reg y).toNat > 255 then 1 else 0) ∧
      (x ≠ vf → (t.reg x).toNat = ((s.reg x).toNat + (s.reg y).toNat) % 256) ∧
      ChangesOnly (fun p => p = .reg x ∨ p = .reg vf) s t

/-- 42_load_alu.md R127: Vx - Vy, the flag strict and last. -/
def Obligations.SubSetsStrictFlagLast : Prop :=
  ∀ (s : State) (x y : Reg),
    ∃ t, exec (.subVxVy x y) s = .next t ∧
      t.reg vf = (if (s.reg x).toNat > (s.reg y).toNat then 1 else 0) ∧
      (x ≠ vf → (t.reg x).toNat = ((s.reg x).toNat + 256 - (s.reg y).toNat) % 256) ∧
      ChangesOnly (fun p => p = .reg x ∨ p = .reg vf) s t

/-- 42_load_alu.md R129: Vy - Vx into Vx, the flag strict and last. -/
def Obligations.SubnSetsStrictFlagLast : Prop :=
  ∀ (s : State) (x y : Reg),
    ∃ t, exec (.subnVxVy x y) s = .next t ∧
      t.reg vf = (if (s.reg y).toNat > (s.reg x).toNat then 1 else 0) ∧
      (x ≠ vf → (t.reg x).toNat = ((s.reg y).toNat + 256 - (s.reg x).toNat) % 256) ∧
      ChangesOnly (fun p => p = .reg x ∨ p = .reg vf) s t

/-- 42_load_alu.md R128, R130: one place right or left, the bit shifted out to VF, last. -/
def Obligations.ShiftsSetTheBitShiftedOutLast : Prop :=
  ∀ (s : State) (x : Reg),
    (∃ t, exec (.shrVx x) s = .next t ∧ (t.reg vf).toNat = (s.reg x).toNat % 2 ∧
      (x ≠ vf → (t.reg x).toNat = (s.reg x).toNat / 2) ∧
      ChangesOnly (fun p => p = .reg x ∨ p = .reg vf) s t) ∧
    (∃ t, exec (.shlVx x) s = .next t ∧ (t.reg vf).toNat = (s.reg x).toNat / 128 ∧
      (x ≠ vf → (t.reg x).toNat = 2 * (s.reg x).toNat % 256) ∧
      ChangesOnly (fun p => p = .reg x ∨ p = .reg vf) s t)

/-- 42_load_alu.md R131: for every value of the step's random byte. -/
def Obligations.RndMasksTheRandomByte : Prop :=
  ∀ (s : State) (x : Reg) (kk : Byte),
    ∃ t, exec (.rnd x kk) s = .next t ∧ t.reg x = (s.sample.rnd &&& kk) ∧
      (∀ k < 8, kk.getLsbD k = false → (t.reg x).getLsbD k = false) ∧ ChangesOnly (· = .reg x) s t

/-! ## The index register and memory -/

/-- 43_index_memory.md R140, R142: LD I,nnn zero-extends; LD F,Vx computes the glyph address from the whole byte, without
overflow in a legal configuration. -/
def Obligations.LoadsOfTheIndexRegister : Prop :=
  ∀ (s : State) (x : Reg) (nnn : BitVec 12),
    (∃ t, exec (.ldI nnn) s = .next t ∧ t.i.toNat = nnn.toNat ∧ ChangesOnly (· = .index) s t) ∧
    (∃ t, exec (.ldFVx x) s = .next t ∧
      (s.cfg.wellFormed = true → t.i.toNat = s.cfg.fontBase.toNat + 5 * (s.reg x).toNat) ∧
      ChangesOnly (· = .index) s t)

/-- 43_index_memory.md R141 (modulo 2^16 is the decision D10; log 14). -/
def Obligations.AddToTheIndexRegister : Prop :=
  ∀ (s : State) (x : Reg),
    ∃ t, exec (.addIVx x) s = .next t ∧ t.i.toNat = (s.i.toNat + (s.reg x).toNat) % 65536 ∧
      ChangesOnly (· = .index) s t

/-- 43_index_memory.md R143: three decimal digits at I, I + 1, I + 2, each address modulo 4096; nothing else changes (that
I does not is the decision D18). -/
def Obligations.StoreDigits : Prop :=
  ∀ (s : State) (x : Reg), Memory.wf s.cfg s.mem = true →
    ∃ t, exec (.ldBVx x) s = .next t ∧
      (t.readByte (s.dataBase % 4096)).toNat = (s.reg x).toNat / 100 ∧
      (t.readByte ((s.dataBase + 1) % 4096)).toNat = (s.reg x).toNat / 10 % 10 ∧
      (t.readByte ((s.dataBase + 2) % 4096)).toNat = (s.reg x).toNat % 10 ∧
      ChangesOnly (BytesFrom s.dataBase 3) s t

/-- 43_index_memory.md R144: V[0] to V[x] at I to I + x, each address modulo 4096; nothing else changes (that I does not is
the decision D18). -/
def Obligations.StoreRegisters : Prop :=
  ∀ (s : State) (x : Reg), Memory.wf s.cfg s.mem = true →
    ∃ t, exec (.ldMemVx x) s = .next t ∧
      (∀ r ≤ x, t.readByte ((s.dataBase + r.val) % 4096) = s.reg r) ∧
      ChangesOnly (BytesFrom s.dataBase (x.val + 1)) s t

/-- 43_index_memory.md R145: V[0] to V[x] from I to I + x, each address modulo 4096; nothing else changes (that I does not
is the decision D18). -/
def Obligations.LoadRegisters : Prop :=
  ∀ (s : State) (x : Reg),
    ∃ t, exec (.ldVxMem x) s = .next t ∧
      (∀ r ≤ x, t.reg r = s.readByte ((s.dataBase + r.val) % 4096)) ∧
      ChangesOnly (fun p => ∃ r ≤ x, p = .reg r) s t

/-! ## Timers and keys -/

/-- 44_timer_key.md R151, R152. -/
def Obligations.LoadsOfTheTimers : Prop :=
  ∀ (s : State) (x : Reg),
    (∃ t, exec (.ldDTVx x) s = .next t ∧ t.dt = s.reg x ∧ ChangesOnly (· = .delayTimer) s t) ∧
    (∃ t, exec (.ldSTVx x) s = .next t ∧ t.st = s.reg x ∧ ChangesOnly (· = .soundTimer) s t)

/-- 44_timer_key.md R155: the lowest key down is stored; with none down only the pc moves, back by 2. -/
def Obligations.KeyReadTakesTheLowestKeyOrHolds : Prop :=
  ∀ (s : State) (x : Reg),
    (∀ k : Key, s.sample.keys[k] = true → (∀ j < k, s.sample.keys[j] = false) →
      ∃ t, exec (.ldVxK x) s = .next t ∧ (t.reg x).toNat = k.val ∧ ChangesOnly (· = .reg x) s t) ∧
    ((∀ k : Key, s.sample.keys[k] = false) → exec (.ldVxK x) s = .next { s with pc := s.pc - 2 })

/-- 44_timer_key.md R155: the instruction "does not advance the program counter across repeated steps while no key is
pressed", and the timers go on ticking. -/
def Obligations.KeyWaitHoldsWhileNoKeyIsDown : Prop :=
  ∀ (k : Nat) (s : State) (x : Reg), s.fault = none → s.nextInstr = .ldVxK x → k ≤ s.inputs.length →
    (∀ m ∈ s.inputs.take k, ∀ j : Key, m.keys[j] = false) →
    ∃ t, Runs k s t ∧ t.fault = none ∧ t.dt.toNat = s.dt.toNat - k ∧ t.st.toNat = s.st.toNat - k ∧
      ChangesOnly (fun p => p = .delayTimer ∨ p = .soundTimer ∨ p = .inputs) s t

/-- 10_state.md R37: a machine is waiting exactly when the word at pc is LD Vx,K and no key is down. -/
def Obligations.WaitingIsTheKeyReadWithNoKeyDown : Prop :=
  ∀ s : State, s.waiting = true ↔ (∃ x, s.nextInstr = .ldVxK x) ∧ ∀ k : Key, s.sample.keys[k] = false

/-! ## The display -/

/-- 45_display.md R160. -/
def Obligations.ClsTurnsEveryPixelOff : Prop :=
  ∀ s : State, ∃ t, exec .cls s = .next t ∧ (∀ R C, t.pixel R C = false) ∧
    ChangesOnly (fun p => ∃ R C, p = .pixel R C) s t

/-- 45_display.md R161, R162 (wrapping at both edges is the decision D11, the bit order D12, that I stays D18; log 12,
15): every pixel under a 1 bit of the sprite is inverted, no other changes, and VF tells whether one was on. -/
def Obligations.DrawInvertsTheCoveredPixels : Prop :=
  ∀ (s : State) (x y : Reg) (n : Fin 16),
    ∃ t, exec (.drw x y n) s = .next t ∧
      (∀ R C, s.spriteCovers x y n.val R C → t.pixel R C = !s.pixel R C) ∧
      (∀ R C, ¬ s.spriteCovers x y n.val R C → t.pixel R C = s.pixel R C) ∧
      ((∃ R C, s.spriteCovers x y n.val R C ∧ s.pixel R C = true) → t.reg vf = 1) ∧
      (¬ (∃ R C, s.spriteCovers x y n.val R C ∧ s.pixel R C = true) → t.reg vf = 0) ∧
      ChangesOnly (fun p => p = .reg vf ∨ ∃ R C, p = .pixel R C) s t

/-- 45_display.md R161: drawing the same sprite twice restores every pixel, and the second draw's flag tells whether a
sprite bit met a pixel that was off before the first (D11). -/
def Obligations.DrawTwiceRestoresTheScreen : Prop :=
  ∀ (s : State) (x y : Reg) (n : Fin 16), x ≠ vf → y ≠ vf →
    ∃ t u, exec (.drw x y n) s = .next t ∧ exec (.drw x y n) t = .next u ∧
      (∀ R C, u.pixel R C = s.pixel R C) ∧
      (u.reg vf = 1 ↔ ∃ R C, s.spriteCovers x y n.val R C ∧ s.pixel R C = false)
end

