-- ==== Sys2Proof/Laws/Decode.lean ====
section
/-! SUPPORT. The fields of a word in each format (30_encoding.md R72), and words as bytes. -/

namespace Sys2Proof

/-! ## A field as a quotient and remainder -/

theorem opField_toNat (w : Word) : (opField w).toNat = w.toNat / 0x1000 % 0x10 := by
  simp [opField, Nat.shiftRight_eq_div_pow]

theorem xField_val (w : Word) : (xField w).val = w.toNat / 0x100 % 0x10 := by
  show (w.extractLsb' 8 4).toNat = _
  simp [Nat.shiftRight_eq_div_pow]

theorem yField_val (w : Word) : (yField w).val = w.toNat / 0x10 % 0x10 := by
  show (w.extractLsb' 4 4).toNat = _
  simp [Nat.shiftRight_eq_div_pow]

theorem nField_toNat (w : Word) : (nField w).toNat = w.toNat % 0x10 := by simp [nField]

theorem rowsField_val (w : Word) : (rowsField w).val = w.toNat % 0x10 := nField_toNat w

theorem kkField_toNat (w : Word) : (kkField w).toNat = w.toNat % 0x100 := by simp [kkField]

theorem nnnField_toNat (w : Word) : (nnnField w).toNat = w.toNat % 0x1000 := by simp [nnnField]

/-! ## The formats -/

theorem formatA_toNat {op : Nat} (h : op < 16) (nnn : BitVec 12) : (formatA op nnn).toNat = op * 0x1000 + nnn.toNat := by
  have := nnn.isLt
  simp only [formatA, BitVec.toNat_ofNat]
  omega

theorem formatXK_toNat {op : Nat} (h : op < 16) (x : Reg) (kk : Byte) :
    (formatXK op x kk).toNat = op * 0x1000 + x.val * 0x100 + kk.toNat := by
  have := x.isLt
  have := kk.isLt
  simp only [formatXK, BitVec.toNat_ofNat]
  omega

theorem formatXYN_toNat {op n : Nat} (h : op < 16) (hn : n < 16) (x y : Reg) :
    (formatXYN op x y n).toNat = op * 0x1000 + x.val * 0x100 + y.val * 0x10 + n := by
  have := x.isLt
  have := y.isLt
  simp only [formatXYN, BitVec.toNat_ofNat]
  omega

theorem formatX_toNat {op key : Nat} (h : op < 16) (hk : key < 256) (x : Reg) :
    (formatX op x key).toNat = op * 0x1000 + x.val * 0x100 + key := by
  have := x.isLt
  simp only [formatX, BitVec.toNat_ofNat]
  omega

theorem opField_formatA {op : Nat} (h : op < 16) (nnn : BitVec 12) : (opField (formatA op nnn)).toNat = op := by
  have := nnn.isLt
  rw [opField_toNat, formatA_toNat h]
  omega

theorem opField_formatXK {op : Nat} (h : op < 16) (x : Reg) (kk : Byte) : (opField (formatXK op x kk)).toNat = op := by
  have := x.isLt
  have := kk.isLt
  rw [opField_toNat, formatXK_toNat h]
  omega

theorem opField_formatXYN {op n : Nat} (h : op < 16) (hn : n < 16) (x y : Reg) :
    (opField (formatXYN op x y n)).toNat = op := by
  have := x.isLt
  have := y.isLt
  rw [opField_toNat, formatXYN_toNat h hn]
  omega

theorem opField_formatX {op key : Nat} (h : op < 16) (hk : key < 256) (x : Reg) :
    (opField (formatX op x key)).toNat = op := by
  have := x.isLt
  rw [opField_toNat, formatX_toNat h hk]
  omega

/-! ## Words as bytes -/

theorem wordOfBytes_toNat (hi lo : Byte) : (wordOfBytes hi lo).toNat = hi.toNat * 0x100 + lo.toNat := by
  have h := Nat.two_pow_add_eq_or_of_lt lo.isLt hi.toNat
  rw [wordOfBytes, BitVec.toNat_append, Nat.shiftLeft_eq, Nat.mul_comm, ← h]

theorem highByte_toNat (w : Word) : (highByte w).toNat = w.toNat / 0x100 := by
  have := w.isLt
  simp [highByte, Nat.shiftRight_eq_div_pow]
  omega

theorem lowByte_toNat (w : Word) : (lowByte w).toNat = w.toNat % 0x100 := by simp [lowByte]

/-- The two bytes of a word make it again. -/
@[simp] theorem wordOfBytes_highByte_lowByte (w : Word) : wordOfBytes (highByte w) (lowByte w) = w := by
  apply BitVec.eq_of_toNat_eq
  rw [wordOfBytes_toNat, highByte_toNat, lowByte_toNat]
  omega

theorem decode_two (hi lo : Byte) (rest : List Byte) :
    decode (hi :: lo :: rest) = .ok (decodeWord (wordOfBytes hi lo), rest) := rfl

end Sys2Proof
end

