-- ==== Sys2Proof/Laws/State.lean ====
section
/-! SUPPORT. What each update of the state leaves in each field, so that no later proof unfolds a record update. -/

namespace Sys2Proof.Machine

variable (s : State)

/-! ## State.setReg -/

@[simp] theorem State.setReg_i (x : Reg) (b : Byte) : (s.setReg x b).i = s.i := rfl
@[simp] theorem State.setReg_pc (x : Reg) (b : Byte) : (s.setReg x b).pc = s.pc := rfl
@[simp] theorem State.setReg_stack (x : Reg) (b : Byte) : (s.setReg x b).stack = s.stack := rfl
@[simp] theorem State.setReg_sp (x : Reg) (b : Byte) : (s.setReg x b).sp = s.sp := rfl
@[simp] theorem State.setReg_dt (x : Reg) (b : Byte) : (s.setReg x b).dt = s.dt := rfl
@[simp] theorem State.setReg_st (x : Reg) (b : Byte) : (s.setReg x b).st = s.st := rfl
@[simp] theorem State.setReg_mem (x : Reg) (b : Byte) : (s.setReg x b).mem = s.mem := rfl
@[simp] theorem State.setReg_fb (x : Reg) (b : Byte) : (s.setReg x b).fb = s.fb := rfl
@[simp] theorem State.setReg_fault (x : Reg) (b : Byte) : (s.setReg x b).fault = s.fault := rfl
@[simp] theorem State.setReg_cfg (x : Reg) (b : Byte) : (s.setReg x b).cfg = s.cfg := rfl
@[simp] theorem State.setReg_inputs (x : Reg) (b : Byte) : (s.setReg x b).inputs = s.inputs := rfl
@[simp] theorem State.setReg_drawn (x : Reg) (b : Byte) : (s.setReg x b).drawn = s.drawn := rfl

/-! ## State.setRegIf -/

@[simp] theorem State.setRegIf_i (x : Reg) (b : Option Byte) : (s.setRegIf x b).i = s.i := rfl
@[simp] theorem State.setRegIf_pc (x : Reg) (b : Option Byte) : (s.setRegIf x b).pc = s.pc := rfl
@[simp] theorem State.setRegIf_stack (x : Reg) (b : Option Byte) : (s.setRegIf x b).stack = s.stack := rfl
@[simp] theorem State.setRegIf_sp (x : Reg) (b : Option Byte) : (s.setRegIf x b).sp = s.sp := rfl
@[simp] theorem State.setRegIf_dt (x : Reg) (b : Option Byte) : (s.setRegIf x b).dt = s.dt := rfl
@[simp] theorem State.setRegIf_st (x : Reg) (b : Option Byte) : (s.setRegIf x b).st = s.st := rfl
@[simp] theorem State.setRegIf_mem (x : Reg) (b : Option Byte) : (s.setRegIf x b).mem = s.mem := rfl
@[simp] theorem State.setRegIf_fb (x : Reg) (b : Option Byte) : (s.setRegIf x b).fb = s.fb := rfl
@[simp] theorem State.setRegIf_fault (x : Reg) (b : Option Byte) : (s.setRegIf x b).fault = s.fault := rfl
@[simp] theorem State.setRegIf_cfg (x : Reg) (b : Option Byte) : (s.setRegIf x b).cfg = s.cfg := rfl
@[simp] theorem State.setRegIf_inputs (x : Reg) (b : Option Byte) : (s.setRegIf x b).inputs = s.inputs := rfl
@[simp] theorem State.setRegIf_drawn (x : Reg) (b : Option Byte) : (s.setRegIf x b).drawn = s.drawn := rfl

/-! ## State.setFlag -/

@[simp] theorem State.setFlag_i (f : Bool) : (s.setFlag f).i = s.i := rfl
@[simp] theorem State.setFlag_pc (f : Bool) : (s.setFlag f).pc = s.pc := rfl
@[simp] theorem State.setFlag_stack (f : Bool) : (s.setFlag f).stack = s.stack := rfl
@[simp] theorem State.setFlag_sp (f : Bool) : (s.setFlag f).sp = s.sp := rfl
@[simp] theorem State.setFlag_dt (f : Bool) : (s.setFlag f).dt = s.dt := rfl
@[simp] theorem State.setFlag_st (f : Bool) : (s.setFlag f).st = s.st := rfl
@[simp] theorem State.setFlag_mem (f : Bool) : (s.setFlag f).mem = s.mem := rfl
@[simp] theorem State.setFlag_fb (f : Bool) : (s.setFlag f).fb = s.fb := rfl
@[simp] theorem State.setFlag_fault (f : Bool) : (s.setFlag f).fault = s.fault := rfl
@[simp] theorem State.setFlag_cfg (f : Bool) : (s.setFlag f).cfg = s.cfg := rfl
@[simp] theorem State.setFlag_inputs (f : Bool) : (s.setFlag f).inputs = s.inputs := rfl
@[simp] theorem State.setFlag_drawn (f : Bool) : (s.setFlag f).drawn = s.drawn := rfl

/-! ## State.setRegFlag -/

@[simp] theorem State.setRegFlag_i (x : Reg) (b : Byte) (f : Bool) : (s.setRegFlag x b f).i = s.i := rfl
@[simp] theorem State.setRegFlag_pc (x : Reg) (b : Byte) (f : Bool) : (s.setRegFlag x b f).pc = s.pc := rfl
@[simp] theorem State.setRegFlag_stack (x : Reg) (b : Byte) (f : Bool) : (s.setRegFlag x b f).stack = s.stack := rfl
@[simp] theorem State.setRegFlag_sp (x : Reg) (b : Byte) (f : Bool) : (s.setRegFlag x b f).sp = s.sp := rfl
@[simp] theorem State.setRegFlag_dt (x : Reg) (b : Byte) (f : Bool) : (s.setRegFlag x b f).dt = s.dt := rfl
@[simp] theorem State.setRegFlag_st (x : Reg) (b : Byte) (f : Bool) : (s.setRegFlag x b f).st = s.st := rfl
@[simp] theorem State.setRegFlag_mem (x : Reg) (b : Byte) (f : Bool) : (s.setRegFlag x b f).mem = s.mem := rfl
@[simp] theorem State.setRegFlag_fb (x : Reg) (b : Byte) (f : Bool) : (s.setRegFlag x b f).fb = s.fb := rfl
@[simp] theorem State.setRegFlag_fault (x : Reg) (b : Byte) (f : Bool) : (s.setRegFlag x b f).fault = s.fault := rfl
@[simp] theorem State.setRegFlag_cfg (x : Reg) (b : Byte) (f : Bool) : (s.setRegFlag x b f).cfg = s.cfg := rfl
@[simp] theorem State.setRegFlag_inputs (x : Reg) (b : Byte) (f : Bool) : (s.setRegFlag x b f).inputs = s.inputs := rfl
@[simp] theorem State.setRegFlag_drawn (x : Reg) (b : Byte) (f : Bool) : (s.setRegFlag x b f).drawn = s.drawn := rfl

/-! ## State.setI -/

@[simp] theorem State.setI_v (w : Word) : (s.setI w).v = s.v := rfl
@[simp] theorem State.setI_i (w : Word) : (s.setI w).i = w := rfl
@[simp] theorem State.setI_pc (w : Word) : (s.setI w).pc = s.pc := rfl
@[simp] theorem State.setI_stack (w : Word) : (s.setI w).stack = s.stack := rfl
@[simp] theorem State.setI_sp (w : Word) : (s.setI w).sp = s.sp := rfl
@[simp] theorem State.setI_dt (w : Word) : (s.setI w).dt = s.dt := rfl
@[simp] theorem State.setI_st (w : Word) : (s.setI w).st = s.st := rfl
@[simp] theorem State.setI_mem (w : Word) : (s.setI w).mem = s.mem := rfl
@[simp] theorem State.setI_fb (w : Word) : (s.setI w).fb = s.fb := rfl
@[simp] theorem State.setI_fault (w : Word) : (s.setI w).fault = s.fault := rfl
@[simp] theorem State.setI_cfg (w : Word) : (s.setI w).cfg = s.cfg := rfl
@[simp] theorem State.setI_inputs (w : Word) : (s.setI w).inputs = s.inputs := rfl
@[simp] theorem State.setI_drawn (w : Word) : (s.setI w).drawn = s.drawn := rfl

/-! ## State.setDT -/

@[simp] theorem State.setDT_v (b : Byte) : (s.setDT b).v = s.v := rfl
@[simp] theorem State.setDT_i (b : Byte) : (s.setDT b).i = s.i := rfl
@[simp] theorem State.setDT_pc (b : Byte) : (s.setDT b).pc = s.pc := rfl
@[simp] theorem State.setDT_stack (b : Byte) : (s.setDT b).stack = s.stack := rfl
@[simp] theorem State.setDT_sp (b : Byte) : (s.setDT b).sp = s.sp := rfl
@[simp] theorem State.setDT_dt (b : Byte) : (s.setDT b).dt = b := rfl
@[simp] theorem State.setDT_st (b : Byte) : (s.setDT b).st = s.st := rfl
@[simp] theorem State.setDT_mem (b : Byte) : (s.setDT b).mem = s.mem := rfl
@[simp] theorem State.setDT_fb (b : Byte) : (s.setDT b).fb = s.fb := rfl
@[simp] theorem State.setDT_fault (b : Byte) : (s.setDT b).fault = s.fault := rfl
@[simp] theorem State.setDT_cfg (b : Byte) : (s.setDT b).cfg = s.cfg := rfl
@[simp] theorem State.setDT_inputs (b : Byte) : (s.setDT b).inputs = s.inputs := rfl
@[simp] theorem State.setDT_drawn (b : Byte) : (s.setDT b).drawn = s.drawn := rfl

/-! ## State.setST -/

@[simp] theorem State.setST_v (b : Byte) : (s.setST b).v = s.v := rfl
@[simp] theorem State.setST_i (b : Byte) : (s.setST b).i = s.i := rfl
@[simp] theorem State.setST_pc (b : Byte) : (s.setST b).pc = s.pc := rfl
@[simp] theorem State.setST_stack (b : Byte) : (s.setST b).stack = s.stack := rfl
@[simp] theorem State.setST_sp (b : Byte) : (s.setST b).sp = s.sp := rfl
@[simp] theorem State.setST_dt (b : Byte) : (s.setST b).dt = s.dt := rfl
@[simp] theorem State.setST_st (b : Byte) : (s.setST b).st = b := rfl
@[simp] theorem State.setST_mem (b : Byte) : (s.setST b).mem = s.mem := rfl
@[simp] theorem State.setST_fb (b : Byte) : (s.setST b).fb = s.fb := rfl
@[simp] theorem State.setST_fault (b : Byte) : (s.setST b).fault = s.fault := rfl
@[simp] theorem State.setST_cfg (b : Byte) : (s.setST b).cfg = s.cfg := rfl
@[simp] theorem State.setST_inputs (b : Byte) : (s.setST b).inputs = s.inputs := rfl
@[simp] theorem State.setST_drawn (b : Byte) : (s.setST b).drawn = s.drawn := rfl

/-! ## State.loadRegs -/

@[simp] theorem State.loadRegs_i (x : Reg) (a : Nat) : (s.loadRegs x a).i = s.i := rfl
@[simp] theorem State.loadRegs_pc (x : Reg) (a : Nat) : (s.loadRegs x a).pc = s.pc := rfl
@[simp] theorem State.loadRegs_stack (x : Reg) (a : Nat) : (s.loadRegs x a).stack = s.stack := rfl
@[simp] theorem State.loadRegs_sp (x : Reg) (a : Nat) : (s.loadRegs x a).sp = s.sp := rfl
@[simp] theorem State.loadRegs_dt (x : Reg) (a : Nat) : (s.loadRegs x a).dt = s.dt := rfl
@[simp] theorem State.loadRegs_st (x : Reg) (a : Nat) : (s.loadRegs x a).st = s.st := rfl
@[simp] theorem State.loadRegs_mem (x : Reg) (a : Nat) : (s.loadRegs x a).mem = s.mem := rfl
@[simp] theorem State.loadRegs_fb (x : Reg) (a : Nat) : (s.loadRegs x a).fb = s.fb := rfl
@[simp] theorem State.loadRegs_fault (x : Reg) (a : Nat) : (s.loadRegs x a).fault = s.fault := rfl
@[simp] theorem State.loadRegs_cfg (x : Reg) (a : Nat) : (s.loadRegs x a).cfg = s.cfg := rfl
@[simp] theorem State.loadRegs_inputs (x : Reg) (a : Nat) : (s.loadRegs x a).inputs = s.inputs := rfl
@[simp] theorem State.loadRegs_drawn (x : Reg) (a : Nat) : (s.loadRegs x a).drawn = s.drawn := rfl

/-! ## State.jump -/

@[simp] theorem State.jump_v (w : Word) : (s.jump w).v = s.v := rfl
@[simp] theorem State.jump_i (w : Word) : (s.jump w).i = s.i := rfl
@[simp] theorem State.jump_pc (w : Word) : (s.jump w).pc = w := rfl
@[simp] theorem State.jump_stack (w : Word) : (s.jump w).stack = s.stack := rfl
@[simp] theorem State.jump_sp (w : Word) : (s.jump w).sp = s.sp := rfl
@[simp] theorem State.jump_dt (w : Word) : (s.jump w).dt = s.dt := rfl
@[simp] theorem State.jump_st (w : Word) : (s.jump w).st = s.st := rfl
@[simp] theorem State.jump_mem (w : Word) : (s.jump w).mem = s.mem := rfl
@[simp] theorem State.jump_fb (w : Word) : (s.jump w).fb = s.fb := rfl
@[simp] theorem State.jump_fault (w : Word) : (s.jump w).fault = s.fault := rfl
@[simp] theorem State.jump_cfg (w : Word) : (s.jump w).cfg = s.cfg := rfl
@[simp] theorem State.jump_inputs (w : Word) : (s.jump w).inputs = s.inputs := rfl
@[simp] theorem State.jump_drawn (w : Word) : (s.jump w).drawn = s.drawn := rfl

/-! ## State.skipIf -/

@[simp] theorem State.skipIf_v (c : Bool) : (s.skipIf c).v = s.v := rfl
@[simp] theorem State.skipIf_i (c : Bool) : (s.skipIf c).i = s.i := rfl
@[simp] theorem State.skipIf_pc (c : Bool) : (s.skipIf c).pc = if c then s.pc + 2 else s.pc := rfl
@[simp] theorem State.skipIf_stack (c : Bool) : (s.skipIf c).stack = s.stack := rfl
@[simp] theorem State.skipIf_sp (c : Bool) : (s.skipIf c).sp = s.sp := rfl
@[simp] theorem State.skipIf_dt (c : Bool) : (s.skipIf c).dt = s.dt := rfl
@[simp] theorem State.skipIf_st (c : Bool) : (s.skipIf c).st = s.st := rfl
@[simp] theorem State.skipIf_mem (c : Bool) : (s.skipIf c).mem = s.mem := rfl
@[simp] theorem State.skipIf_fb (c : Bool) : (s.skipIf c).fb = s.fb := rfl
@[simp] theorem State.skipIf_fault (c : Bool) : (s.skipIf c).fault = s.fault := rfl
@[simp] theorem State.skipIf_cfg (c : Bool) : (s.skipIf c).cfg = s.cfg := rfl
@[simp] theorem State.skipIf_inputs (c : Bool) : (s.skipIf c).inputs = s.inputs := rfl
@[simp] theorem State.skipIf_drawn (c : Bool) : (s.skipIf c).drawn = s.drawn := rfl

/-! ## State.holdIf -/

@[simp] theorem State.holdIf_v (c : Bool) : (s.holdIf c).v = s.v := rfl
@[simp] theorem State.holdIf_i (c : Bool) : (s.holdIf c).i = s.i := rfl
@[simp] theorem State.holdIf_pc (c : Bool) : (s.holdIf c).pc = if c then s.pc - 2 else s.pc := rfl
@[simp] theorem State.holdIf_stack (c : Bool) : (s.holdIf c).stack = s.stack := rfl
@[simp] theorem State.holdIf_sp (c : Bool) : (s.holdIf c).sp = s.sp := rfl
@[simp] theorem State.holdIf_dt (c : Bool) : (s.holdIf c).dt = s.dt := rfl
@[simp] theorem State.holdIf_st (c : Bool) : (s.holdIf c).st = s.st := rfl
@[simp] theorem State.holdIf_mem (c : Bool) : (s.holdIf c).mem = s.mem := rfl
@[simp] theorem State.holdIf_fb (c : Bool) : (s.holdIf c).fb = s.fb := rfl
@[simp] theorem State.holdIf_fault (c : Bool) : (s.holdIf c).fault = s.fault := rfl
@[simp] theorem State.holdIf_cfg (c : Bool) : (s.holdIf c).cfg = s.cfg := rfl
@[simp] theorem State.holdIf_inputs (c : Bool) : (s.holdIf c).inputs = s.inputs := rfl
@[simp] theorem State.holdIf_drawn (c : Bool) : (s.holdIf c).drawn = s.drawn := rfl

/-! ## State.raise -/

@[simp] theorem State.raise_v (f : Fault) : (s.raise f).v = s.v := rfl
@[simp] theorem State.raise_i (f : Fault) : (s.raise f).i = s.i := rfl
@[simp] theorem State.raise_pc (f : Fault) : (s.raise f).pc = s.pc := rfl
@[simp] theorem State.raise_stack (f : Fault) : (s.raise f).stack = s.stack := rfl
@[simp] theorem State.raise_sp (f : Fault) : (s.raise f).sp = s.sp := rfl
@[simp] theorem State.raise_dt (f : Fault) : (s.raise f).dt = s.dt := rfl
@[simp] theorem State.raise_st (f : Fault) : (s.raise f).st = s.st := rfl
@[simp] theorem State.raise_mem (f : Fault) : (s.raise f).mem = s.mem := rfl
@[simp] theorem State.raise_fb (f : Fault) : (s.raise f).fb = s.fb := rfl
@[simp] theorem State.raise_fault (f : Fault) : (s.raise f).fault = some f := rfl
@[simp] theorem State.raise_cfg (f : Fault) : (s.raise f).cfg = s.cfg := rfl
@[simp] theorem State.raise_inputs (f : Fault) : (s.raise f).inputs = s.inputs := rfl
@[simp] theorem State.raise_drawn (f : Fault) : (s.raise f).drawn = s.drawn := rfl

/-! ## State.setScreen -/

@[simp] theorem State.setScreen_v (fb : Screen) : (s.setScreen fb).v = s.v := rfl
@[simp] theorem State.setScreen_i (fb : Screen) : (s.setScreen fb).i = s.i := rfl
@[simp] theorem State.setScreen_pc (fb : Screen) : (s.setScreen fb).pc = s.pc := rfl
@[simp] theorem State.setScreen_stack (fb : Screen) : (s.setScreen fb).stack = s.stack := rfl
@[simp] theorem State.setScreen_sp (fb : Screen) : (s.setScreen fb).sp = s.sp := rfl
@[simp] theorem State.setScreen_dt (fb : Screen) : (s.setScreen fb).dt = s.dt := rfl
@[simp] theorem State.setScreen_st (fb : Screen) : (s.setScreen fb).st = s.st := rfl
@[simp] theorem State.setScreen_mem (fb : Screen) : (s.setScreen fb).mem = s.mem := rfl
@[simp] theorem State.setScreen_fb (fb : Screen) : (s.setScreen fb).fb = fb := rfl
@[simp] theorem State.setScreen_fault (fb : Screen) : (s.setScreen fb).fault = s.fault := rfl
@[simp] theorem State.setScreen_cfg (fb : Screen) : (s.setScreen fb).cfg = s.cfg := rfl
@[simp] theorem State.setScreen_inputs (fb : Screen) : (s.setScreen fb).inputs = s.inputs := rfl
@[simp] theorem State.setScreen_drawn (fb : Screen) : (s.setScreen fb).drawn = s.drawn := rfl

/-! ## State.nextSample -/

@[simp] theorem State.nextSample_v : (s.nextSample).v = s.v := rfl
@[simp] theorem State.nextSample_i : (s.nextSample).i = s.i := rfl
@[simp] theorem State.nextSample_pc : (s.nextSample).pc = s.pc := rfl
@[simp] theorem State.nextSample_stack : (s.nextSample).stack = s.stack := rfl
@[simp] theorem State.nextSample_sp : (s.nextSample).sp = s.sp := rfl
@[simp] theorem State.nextSample_dt : (s.nextSample).dt = s.dt := rfl
@[simp] theorem State.nextSample_st : (s.nextSample).st = s.st := rfl
@[simp] theorem State.nextSample_mem : (s.nextSample).mem = s.mem := rfl
@[simp] theorem State.nextSample_fb : (s.nextSample).fb = s.fb := rfl
@[simp] theorem State.nextSample_fault : (s.nextSample).fault = s.fault := rfl
@[simp] theorem State.nextSample_cfg : (s.nextSample).cfg = s.cfg := rfl
@[simp] theorem State.nextSample_inputs : (s.nextSample).inputs = s.inputs.tail := rfl
@[simp] theorem State.nextSample_drawn : (s.nextSample).drawn = s.drawn + 1 := rfl

/-! ## State.preIncrement -/

@[simp] theorem State.preIncrement_v : (s.preIncrement).v = s.v := rfl
@[simp] theorem State.preIncrement_i : (s.preIncrement).i = s.i := rfl
@[simp] theorem State.preIncrement_pc : (s.preIncrement).pc = s.pc + 2 := rfl
@[simp] theorem State.preIncrement_stack : (s.preIncrement).stack = s.stack := rfl
@[simp] theorem State.preIncrement_sp : (s.preIncrement).sp = s.sp := rfl
@[simp] theorem State.preIncrement_dt : (s.preIncrement).dt = s.dt := rfl
@[simp] theorem State.preIncrement_st : (s.preIncrement).st = s.st := rfl
@[simp] theorem State.preIncrement_mem : (s.preIncrement).mem = s.mem := rfl
@[simp] theorem State.preIncrement_fb : (s.preIncrement).fb = s.fb := rfl
@[simp] theorem State.preIncrement_fault : (s.preIncrement).fault = s.fault := rfl
@[simp] theorem State.preIncrement_cfg : (s.preIncrement).cfg = s.cfg := rfl
@[simp] theorem State.preIncrement_inputs : (s.preIncrement).inputs = s.inputs := rfl
@[simp] theorem State.preIncrement_drawn : (s.preIncrement).drawn = s.drawn := rfl

/-! ## State.tick -/

@[simp] theorem State.tick_v : (s.tick).v = s.v := rfl
@[simp] theorem State.tick_i : (s.tick).i = s.i := rfl
@[simp] theorem State.tick_pc : (s.tick).pc = s.pc := rfl
@[simp] theorem State.tick_stack : (s.tick).stack = s.stack := rfl
@[simp] theorem State.tick_sp : (s.tick).sp = s.sp := rfl
@[simp] theorem State.tick_dt : (s.tick).dt = tickByte s.dt := rfl
@[simp] theorem State.tick_st : (s.tick).st = tickByte s.st := rfl
@[simp] theorem State.tick_mem : (s.tick).mem = s.mem := rfl
@[simp] theorem State.tick_fb : (s.tick).fb = s.fb := rfl
@[simp] theorem State.tick_fault : (s.tick).fault = s.fault := rfl
@[simp] theorem State.tick_cfg : (s.tick).cfg = s.cfg := rfl
@[simp] theorem State.tick_inputs : (s.tick).inputs = s.inputs := rfl
@[simp] theorem State.tick_drawn : (s.tick).drawn = s.drawn := rfl

/-! ## State.writeByte -/

@[simp] theorem State.writeByte_v (a : Nat) (b : Byte) : (s.writeByte a b).v = s.v := rfl
@[simp] theorem State.writeByte_i (a : Nat) (b : Byte) : (s.writeByte a b).i = s.i := rfl
@[simp] theorem State.writeByte_pc (a : Nat) (b : Byte) : (s.writeByte a b).pc = s.pc := rfl
@[simp] theorem State.writeByte_stack (a : Nat) (b : Byte) : (s.writeByte a b).stack = s.stack := rfl
@[simp] theorem State.writeByte_sp (a : Nat) (b : Byte) : (s.writeByte a b).sp = s.sp := rfl
@[simp] theorem State.writeByte_dt (a : Nat) (b : Byte) : (s.writeByte a b).dt = s.dt := rfl
@[simp] theorem State.writeByte_st (a : Nat) (b : Byte) : (s.writeByte a b).st = s.st := rfl
@[simp] theorem State.writeByte_mem (a : Nat) (b : Byte) : (s.writeByte a b).mem = Memory.write s.cfg s.mem (a % 4096) b := rfl
@[simp] theorem State.writeByte_fb (a : Nat) (b : Byte) : (s.writeByte a b).fb = s.fb := rfl
@[simp] theorem State.writeByte_fault (a : Nat) (b : Byte) : (s.writeByte a b).fault = s.fault := rfl
@[simp] theorem State.writeByte_cfg (a : Nat) (b : Byte) : (s.writeByte a b).cfg = s.cfg := rfl
@[simp] theorem State.writeByte_inputs (a : Nat) (b : Byte) : (s.writeByte a b).inputs = s.inputs := rfl
@[simp] theorem State.writeByte_drawn (a : Nat) (b : Byte) : (s.writeByte a b).drawn = s.drawn := rfl

end Sys2Proof.Machine
end

