-- ==== Sys2Proof/Laws/Memory.lean ====
section
/-! SUPPORT. Memory: a read after a write, and that every operation keeps the canonical form. -/

namespace Sys2Proof.Machine

/-- A cell that may head a canonical list whose addresses all exceed its own. -/
theorem Memory.wf_cons {c : Config} {a : Nat} {x : Byte} {m : Memory} :
    Memory.wf c ((a, x) :: m) = true ↔
      (∀ p ∈ m, a < p.1) ∧ a < 4096 ∧ x ≠ resetByte c a ∧ Memory.wf c m = true := by
  simp only [Memory.wf, List.pairwise_cons, List.all_cons, Bool.and_eq_true, decide_eq_true_eq]
  tauto

@[simp] theorem Memory.wf_nil (c : Config) : Memory.wf c [] = true := by simp [Memory.wf]

/-- An address below every listed one reads as at reset. -/
theorem Memory.read_of_lt {c : Config} {a : Nat} {m : Memory} (h : ∀ p ∈ m, a < p.1) :
    Memory.read c m a = resetByte c a := by
  induction m with
  | nil => rfl
  | cons p m ih =>
    have hp : a < p.1 := h p (by simp)
    simp only [Memory.read, if_neg (Nat.ne_of_lt hp)]
    exact ih fun q hq => h q (by simp [hq])

theorem Memory.read_put {c : Config} {a : Nat} {x : Byte} {m : Memory} (h : ∀ p ∈ m, a < p.1) (b : Nat) :
    Memory.read c (Memory.put c a x m) b = if b = a then x else Memory.read c m b := by
  unfold Memory.put
  split
  next hx =>
    split
    next hb => subst hb; rw [Memory.read_of_lt h, hx]
    next => rfl
  next => simp [Memory.read]

/-- A write adds no address but its own. -/
theorem Memory.mem_write {c : Config} {m : Memory} {a : Nat} {x : Byte} {p : Host.Cell}
    (h : p ∈ Memory.write c m a x) : p = (a, x) ∨ p ∈ m := by
  induction m with
  | nil =>
    simp only [Memory.write, Memory.put] at h
    split at h <;> simp_all
  | cons q m ih =>
    simp only [Memory.write, Memory.put] at h
    repeat' split at h
    all_goals simp only [List.mem_cons] at h ⊢
    all_goals tauto

/-- Read after write, on a canonical memory. -/
theorem Memory.read_write {c : Config} {m : Memory} (h : Memory.wf c m = true) (a : Nat) (x : Byte) (b : Nat) :
    Memory.read c (Memory.write c m a x) b = if b = a then x else Memory.read c m b := by
  induction m with
  | nil => exact Memory.read_put (by simp) b
  | cons p m ih =>
    obtain ⟨q, y⟩ := p
    obtain ⟨hlt, -, -, hm⟩ := Memory.wf_cons.mp h
    simp only [Memory.write]
    split
    next haq =>
      refine Memory.read_put (fun p hp => ?_) b
      rcases List.mem_cons.mp hp with rfl | hp
      · exact haq
      · exact haq.trans (hlt p hp)
    next =>
      split
      next haq =>
        subst haq
        rw [Memory.read_put hlt]
        by_cases hb : b = a <;> simp [Memory.read, hb]
      next haq =>
        simp only [Memory.read, ih hm]
        by_cases hb : b = q
        · subst hb
          simp [Ne.symm haq]
        · simp [hb]

theorem Memory.wf_put {c : Config} {a : Nat} {x : Byte} {m : Memory} (ha : a < 4096) (h : ∀ p ∈ m, a < p.1)
    (hm : Memory.wf c m = true) : Memory.wf c (Memory.put c a x m) = true := by
  unfold Memory.put
  split
  next => exact hm
  next hx => exact Memory.wf_cons.mpr ⟨h, ha, hx, hm⟩

/-- A write keeps the canonical form. -/
theorem Memory.wf_write {c : Config} {m : Memory} (h : Memory.wf c m = true) {a : Nat} (ha : a < 4096) (x : Byte) :
    Memory.wf c (Memory.write c m a x) = true := by
  induction m with
  | nil => exact Memory.wf_put ha (by simp) (by simp)
  | cons p m ih =>
    obtain ⟨q, y⟩ := p
    obtain ⟨hlt, hq, hy, hm⟩ := Memory.wf_cons.mp h
    simp only [Memory.write]
    split
    next haq =>
      refine Memory.wf_put ha (fun p hp => ?_) h
      rcases List.mem_cons.mp hp with rfl | hp
      · exact haq
      · exact haq.trans (hlt p hp)
    next hna =>
      split
      next haq => subst haq; exact Memory.wf_put ha hlt hm
      next haq =>
        refine Memory.wf_cons.mpr ⟨fun p hp => ?_, hq, hy, ih hm⟩
        rcases Memory.mem_write hp with rfl | hp
        · show q < a; omega
        · exact hlt p hp

/-! ## Through the state -/

/-- MemRead sees an address modulo 4096 only. -/
theorem State.readByte_mod (s : State) (a : Nat) : s.readByte (a % 4096) = s.readByte a := by
  simp [State.readByte]

/-- MemRead after MemWrite. -/
theorem State.readByte_writeByte {s : State} (h : Memory.wf s.cfg s.mem = true) (a : Nat) (x : Byte) (b : Nat) :
    (s.writeByte a x).readByte b = if b % 4096 = a % 4096 then x else s.readByte b := by
  simp only [State.readByte, State.writeByte_mem, State.writeByte_cfg]
  exact Memory.read_write h _ _ _

theorem State.writeByte_wf {s : State} (h : Memory.wf s.cfg s.mem = true) (a : Nat) (x : Byte) :
    Memory.wf (s.writeByte a x).cfg (s.writeByte a x).mem = true :=
  Memory.wf_write h (Nat.mod_lt _ (by decide)) x

/-- Everything `writeBytes` does but to memory: nothing. -/
theorem State.writeBytes_eq (s : State) (a : Nat) (xs : List Byte) :
    s.writeBytes a xs = { s with mem := (s.writeBytes a xs).mem } := by
  induction xs generalizing s a with
  | nil => rfl
  | cons x xs ih => rw [State.writeBytes, ih]; rfl

theorem State.writeBytes_wf {s : State} (h : Memory.wf s.cfg s.mem = true) (a : Nat) (xs : List Byte) :
    Memory.wf s.cfg (s.writeBytes a xs).mem = true := by
  induction xs generalizing s a with
  | nil => exact h
  | cons x xs ih => exact ih (s := s.writeByte a x) (State.writeByte_wf h a x) (a + 1)

/-- An address none of the written bytes lands on reads as before. -/
theorem State.readByte_writeBytes_other {s : State} (h : Memory.wf s.cfg s.mem = true) (a : Nat) (xs : List Byte)
    (b : Nat) (hb : ∀ k < xs.length, b % 4096 ≠ (a + k) % 4096) : (s.writeBytes a xs).readByte b = s.readByte b := by
  induction xs generalizing s a with
  | nil => rfl
  | cons x xs ih =>
    have h0 : b % 4096 ≠ a % 4096 := hb 0 (by simp)
    rw [State.writeBytes, ih (State.writeByte_wf h a x), State.readByte_writeByte h, if_neg h0]
    intro k hk
    have := hb (k + 1) (by simpa using hk)
    rwa [show a + 1 + k = a + (k + 1) by omega]

/-- Each of at most 4096 bytes written reads back. -/
theorem State.readByte_writeBytes_same {s : State} (h : Memory.wf s.cfg s.mem = true) (a : Nat) (xs : List Byte)
    (hlen : xs.length ≤ 4096) (k : Nat) (hk : k < xs.length) : (s.writeBytes a xs).readByte (a + k) = xs[k] := by
  induction xs generalizing s a k with
  | nil => simp at hk
  | cons x xs ih =>
    have hl : xs.length + 1 ≤ 4096 := by simpa using hlen
    rw [State.writeBytes]
    cases k with
    | zero =>
      rw [State.readByte_writeBytes_other (State.writeByte_wf h a x), State.readByte_writeByte h]
      · simp
      · intro j hj
        omega
    | succ k =>
      have hk' : k < xs.length := by simpa using hk
      have := ih (State.writeByte_wf h a x) (a + 1) (by omega) k hk'
      rw [show a + 1 + k = a + (k + 1) by omega] at this
      simpa using this

end Sys2Proof.Machine
end

