-- ==== Sys2Proof/Laws/Ops.lean ====
section
/-! SUPPORT. One lemma per shared operation, saying what it does, so that no later proof unfolds it. -/

namespace Sys2Proof.Machine

/-! ## Registers -/

@[simp] theorem State.reg_setReg (s : State) (x : Reg) (b : Byte) (r : Reg) :
    (s.setReg x b).reg r = if r = x then b else s.reg r := by
  by_cases h : r = x
  · subst h; simp [State.reg, State.setReg]
  · have hv : x.val ≠ r.val := fun e => h (Fin.ext e.symm)
    simp [State.reg, State.setReg, h, Vector.getElem_set_ne, hv]

@[simp] theorem State.reg_setFlag (s : State) (flag : Bool) (r : Reg) :
    (s.setFlag flag).reg r = if r = vf then (if flag then 1 else 0) else s.reg r := by
  simp only [State.setFlag, State.reg_setReg]

/-- The flag-last rule (10_state.md R22): VF ends as the flag, also when it is the destination. -/
@[simp] theorem State.reg_setRegFlag (s : State) (x : Reg) (b : Byte) (flag : Bool) (r : Reg) :
    (s.setRegFlag x b flag).reg r =
      if r = vf then (if flag then 1 else 0) else if r = x then b else s.reg r := by
  simp only [State.setRegFlag, State.reg_setFlag, State.reg_setReg]

@[simp] theorem State.setRegIf_some (s : State) (x : Reg) (b : Byte) : s.setRegIf x (some b) = s.setReg x b := rfl

@[simp] theorem State.setRegIf_none (s : State) (x : Reg) : s.setRegIf x none = s := rfl

@[simp] theorem State.reg_loadRegs (s : State) (x : Reg) (a : Nat) (r : Reg) :
    (s.loadRegs x a).reg r = if r ≤ x then s.readByte (a + r.val) else s.reg r := by
  simp [State.reg, State.loadRegs]

/-- Reading a register sees the register file only. -/
theorem State.reg_congr {s t : State} (h : t.v = s.v) (r : Reg) : t.reg r = s.reg r := by simp [State.reg, h]

/-- Reading memory sees the memory and the configuration only. -/
theorem State.readByte_congr {s t : State} (hm : t.mem = s.mem) (hc : t.cfg = s.cfg) (a : Nat) :
    t.readByte a = s.readByte a := by simp [State.readByte, hm, hc]

/-- Reading a pixel sees the screen only. -/
theorem State.pixel_congr {s t : State} (h : t.fb = s.fb) (r : Fin 32) (c : Fin 64) : t.pixel r c = s.pixel r c := by
  simp [State.pixel, h]

theorem State.regsUpTo_length (s : State) (x : Reg) : (s.regsUpTo x).length = x.val + 1 := by
  simp [State.regsUpTo]

theorem State.regsUpTo_get (s : State) (x : Reg) (k : Nat) (h : k < (s.regsUpTo x).length) :
    (s.regsUpTo x)[k] = s.reg ⟨k, by rw [State.regsUpTo_length] at h; omega⟩ := by
  simp [State.regsUpTo, State.reg]

/-! ## Call stack -/

/-- CALL's push: it fails exactly when SP = 16. -/
theorem State.push_eq_none {s : State} {w : Word} : s.push w = none ↔ s.sp = 16 := by
  have := s.sp.isLt
  unfold State.push
  split <;> simp [Fin.ext_iff] <;> omega

/-- What a push leaves: the entry at the old SP, one more pending, nothing else. -/
theorem State.push_eq_some {s t : State} {w : Word} (h : s.push w = some t) :
    ∃ hs : s.sp.val < 16, t = { s with stack := s.stack.set s.sp.val w hs, sp := ⟨s.sp.val + 1, by omega⟩ } := by
  unfold State.push at h
  split at h
  next hs => exact ⟨hs, (Option.some.inj h).symm⟩
  next => cases h

/-- RET's pop: it fails exactly when SP = 0. -/
theorem State.pop_eq_none {s : State} : s.pop = none ↔ s.sp = 0 := by
  unfold State.pop
  split
  next h => exact iff_of_false (by simp) fun e => by simp [e] at h
  next h => exact iff_of_true rfl (Fin.ext (Nat.le_zero.mp (Nat.le_of_not_lt h)))

/-- What a pop gives: the entry below SP; SP one lower; the entry stays. -/
theorem State.pop_eq_some {s t : State} {w : Word} (h : s.pop = some (t, w)) :
    ∃ hs : 0 < s.sp.val, t = { s with sp := ⟨s.sp.val - 1, by omega⟩ } ∧ w = s.stack[s.sp.val - 1] := by
  unfold State.pop at h
  split at h
  next hs =>
    obtain ⟨rfl, rfl⟩ := Prod.mk.inj (Option.some.inj h)
    exact ⟨hs, rfl, rfl⟩
  next => cases h

/-! ## Screen -/

@[simp] theorem Screen.get_dark (r : Fin 32) (c : Fin 64) : Screen.get Screen.dark r c = false := by
  simp [Screen.get, Screen.dark]

/-- Flipping one pixel leaves every other. -/
@[simp] theorem Screen.get_flip (fb : Screen) (r : Fin 32) (c : Fin 64) (r' : Fin 32) (c' : Fin 64) :
    Screen.get (Screen.flip fb r c) r' c' = if r' = r ∧ c' = c then !Screen.get fb r' c' else Screen.get fb r' c' := by
  unfold Screen.get Screen.flip
  by_cases hr : r' = r
  · subst hr
    by_cases hc : c' = c
    · subst hc; simp [Screen.get]
    · have hv : c.val ≠ c'.val := fun e => hc (Fin.ext e.symm)
      simp [hc, Vector.getElem_set_ne, hv]
  · have hv : r.val ≠ r'.val := fun e => hr (Fin.ext e.symm)
    simp [hr, Vector.getElem_set_ne, hv]

/-! ## Inputs -/

/-- The lowest key down is down, and none below it is. -/
theorem State.lowestKey_eq_some {s : State} {k : Key} :
    s.lowestKey = some k ↔ s.key k = true ∧ ∀ j < k, s.key j = false := by
  unfold State.lowestKey
  rw [List.find?_eq_some_iff_getElem]
  constructor
  · rintro ⟨hk, i, hi, he, hlow⟩
    refine ⟨by simpa using hk, fun j hj => ?_⟩
    have hik : i = k.val := by simpa using congrArg Fin.val he
    simpa using hlow j.val (by rw [hik]; exact hj)
  · rintro ⟨hk, hlow⟩
    refine ⟨by simpa using hk, k.val, by simp, by simp, fun j hj => ?_⟩
    simpa using hlow ⟨j, hj.trans k.isLt⟩ (by simpa [Fin.lt_def] using hj)

/-- There is no lowest key exactly when none is down. -/
theorem State.lowestKey_eq_none {s : State} : s.lowestKey = none ↔ ∀ k, s.key k = false := by
  simp [State.lowestKey]

/-! ## The step -/

theorem tickByte_toNat (b : Byte) : (tickByte b).toNat = b.toNat - 1 := by
  unfold tickByte
  split
  next h => rw [BitVec.toNat_sub_of_le] <;> simp [BitVec.le_def]; omega
  next => omega

theorem State.settle_of_none {s t : State} (h : t.fault = none) : s.settle t = t.tick.nextSample := by
  simp [State.settle, h]

theorem State.settle_of_some {s t : State} {f : Fault} (h : t.fault = some f) : s.settle t = s.raise f := by
  simp [State.settle, h]

/-- Everything a step can do: nothing on a faulted machine; else what the meaning of the fetched word left, settled. -/
theorem step_eq (s : State) :
    step s = match s.fault with
      | some _ => .next s
      | none => match exec (decodeWord s.fetchWord) s.preIncrement with
        | .next t => .next (s.settle t)
        | .fault r => .fault r
        | .refused r => .refused r := rfl

/-- The inversion of a step that answers a next state. -/
theorem step_cases {s t : State} (h : step s = .next t) :
    (s.fault ≠ none ∧ t = s) ∨
    (s.fault = none ∧ ∃ u, exec (decodeWord s.fetchWord) s.preIncrement = .next u ∧
      ((u.fault = none ∧ t = u.tick.nextSample) ∨ ∃ f, u.fault = some f ∧ t = s.raise f)) := by
  rw [step_eq] at h
  split at h
  next f hf =>
    cases h
    exact .inl ⟨by simp [hf], rfl⟩
  next hf =>
    split at h
    next u hu =>
      cases h
      refine .inr ⟨hf, u, hu, ?_⟩
      cases hfu : u.fault with
      | none => exact .inl ⟨rfl, State.settle_of_none hfu⟩
      | some f => exact .inr ⟨f, rfl, State.settle_of_some hfu⟩
    next => cases h
    next => cases h

end Sys2Proof.Machine
end

