-- ==== Sys2Proof/Laws/Exec.lean ====
section
/-! SUPPORT. What the meanings can do to the parts no instruction but CALL and RET touches, said once: later proofs about
steps cite this instead of splitting the dispatcher. -/

namespace Sys2Proof.Machine

/-- The fields that `t` shares with `s` after any instruction but CALL and RET. -/
def SameControl (s t : State) : Prop :=
  t.fault = s.fault ∧ t.sp = s.sp ∧ t.stack = s.stack ∧ t.cfg = s.cfg ∧ t.inputs = s.inputs ∧ t.drawn = s.drawn

theorem SameControl.writeBytes (s : State) (a : Nat) (xs : List Byte) : SameControl s (s.writeBytes a xs) := by
  rw [State.writeBytes_eq]
  exact ⟨rfl, rfl, rfl, rfl, rfl, rfl⟩

/-- Every meaning but CALL's and RET's answers a next state that shares them. -/
theorem exec_sameControl (i : Instr) (s : State) (hr : i ≠ .ret) (hc : ∀ nnn, i ≠ .call nnn) :
    ∃ t, exec i s = .next t ∧ SameControl s t := by
  cases i
  case ret => exact absurd rfl hr
  case call nnn => exact absurd rfl (hc nnn)
  case ldBVx x => exact ⟨_, rfl, SameControl.writeBytes ..⟩
  case ldMemVx x => exact ⟨_, rfl, SameControl.writeBytes ..⟩
  all_goals
    refine ⟨_, rfl, ?_⟩
    simp [SameControl]

/-- RET: it pops into the pc, or raises StackUnderflow when SP = 0. -/
theorem execRet_cases (s : State) :
    (s.sp = 0 ∧ execRet s = .next (s.raise .stackUnderflow)) ∨
    ∃ t w, s.pop = some (t, w) ∧ execRet s = .next (t.jump w) := by
  unfold execRet
  split
  next t w h => exact .inr ⟨t, w, h, rfl⟩
  next h => exact .inl ⟨State.pop_eq_none.mp h, rfl⟩

/-- CALL: it pushes the pc and jumps, or raises StackOverflow when SP = 16. -/
theorem execCall_cases (nnn : BitVec 12) (s : State) :
    (s.sp = 16 ∧ execCall nnn s = .next (s.raise .stackOverflow)) ∨
    ∃ t, s.push s.pc = some t ∧ execCall nnn s = .next (t.jump (zext nnn)) := by
  unfold execCall
  split
  next t h => exact .inr ⟨t, h, rfl⟩
  next h => exact .inl ⟨State.push_eq_none.mp h, rfl⟩

end Sys2Proof.Machine
end

