-- ==== Sys2Proof/Laws/PerInstr.lean ====
section
/-! SUPPORT. Statements made per instruction, about the instruction as syntax. -/

namespace Sys2Proof.Laws.EncodesInFamily

/-- The family digit of an instruction's words (30_encoding.md R74, R82). -/
def family : Instr → Nat
  | .cls | .ret | .nop => 0x0
  | .jp _ => 0x1
  | .call _ => 0x2
  | .seVxKk _ _ => 0x3
  | .sneVxKk _ _ => 0x4
  | .seVxVy _ _ => 0x5
  | .ldVxKk _ _ => 0x6
  | .addVxKk _ _ => 0x7
  | .ldVxVy _ _ | .orVxVy _ _ | .andVxVy _ _ | .xorVxVy _ _ => 0x8
  | .addVxVy _ _ | .subVxVy _ _ | .shrVx _ | .subnVxVy _ _ | .shlVx _ => 0x8
  | .sneVxVy _ _ => 0x9
  | .ldI _ => 0xA
  | .jpV0 _ => 0xB
  | .rnd _ _ => 0xC
  | .drw _ _ _ => 0xD
  | .skp _ | .sknp _ => 0xE
  | .ldVxDT _ | .ldVxK _ | .ldDTVx _ | .ldSTVx _ | .addIVx _ | .ldFVx _ | .ldBVx _ | .ldMemVx _ | .ldVxMem _ => 0xF

/-- The instruction is well formed, and its canonical word has its family's top nibble. -/
def Statement (i : Instr) : Prop := i.wellFormed = true ∧ (opField (encode i)).toNat = family i

theorem cls : Statement .cls := ⟨rfl, rfl⟩

theorem ret : Statement .ret := ⟨rfl, rfl⟩

theorem jp (nnn : BitVec 12) : Statement (.jp nnn) := ⟨rfl, opField_formatA (by decide) nnn⟩

theorem call (nnn : BitVec 12) : Statement (.call nnn) := ⟨rfl, opField_formatA (by decide) nnn⟩

theorem seVxKk (x : Reg) (kk : Byte) : Statement (.seVxKk x kk) := ⟨rfl, opField_formatXK (by decide) x kk⟩

theorem sneVxKk (x : Reg) (kk : Byte) : Statement (.sneVxKk x kk) := ⟨rfl, opField_formatXK (by decide) x kk⟩

theorem seVxVy (x y : Reg) : Statement (.seVxVy x y) := ⟨rfl, opField_formatXYN (by decide) (by decide) x y⟩

theorem ldVxKk (x : Reg) (kk : Byte) : Statement (.ldVxKk x kk) := ⟨rfl, opField_formatXK (by decide) x kk⟩

theorem addVxKk (x : Reg) (kk : Byte) : Statement (.addVxKk x kk) := ⟨rfl, opField_formatXK (by decide) x kk⟩

theorem ldVxVy (x y : Reg) : Statement (.ldVxVy x y) := ⟨rfl, opField_formatXYN (by decide) (by decide) x y⟩

theorem orVxVy (x y : Reg) : Statement (.orVxVy x y) := ⟨rfl, opField_formatXYN (by decide) (by decide) x y⟩

theorem andVxVy (x y : Reg) : Statement (.andVxVy x y) := ⟨rfl, opField_formatXYN (by decide) (by decide) x y⟩

theorem xorVxVy (x y : Reg) : Statement (.xorVxVy x y) := ⟨rfl, opField_formatXYN (by decide) (by decide) x y⟩

theorem addVxVy (x y : Reg) : Statement (.addVxVy x y) := ⟨rfl, opField_formatXYN (by decide) (by decide) x y⟩

theorem subVxVy (x y : Reg) : Statement (.subVxVy x y) := ⟨rfl, opField_formatXYN (by decide) (by decide) x y⟩

theorem shrVx (x : Reg) : Statement (.shrVx x) := ⟨rfl, opField_formatXYN (by decide) (by decide) x 0⟩

theorem subnVxVy (x y : Reg) : Statement (.subnVxVy x y) := ⟨rfl, opField_formatXYN (by decide) (by decide) x y⟩

theorem shlVx (x : Reg) : Statement (.shlVx x) := ⟨rfl, opField_formatXYN (by decide) (by decide) x 0⟩

theorem sneVxVy (x y : Reg) : Statement (.sneVxVy x y) := ⟨rfl, opField_formatXYN (by decide) (by decide) x y⟩

theorem ldI (nnn : BitVec 12) : Statement (.ldI nnn) := ⟨rfl, opField_formatA (by decide) nnn⟩

theorem jpV0 (nnn : BitVec 12) : Statement (.jpV0 nnn) := ⟨rfl, opField_formatA (by decide) nnn⟩

theorem rnd (x : Reg) (kk : Byte) : Statement (.rnd x kk) := ⟨rfl, opField_formatXK (by decide) x kk⟩

theorem drw (x y : Reg) (n : Fin 16) : Statement (.drw x y n) := ⟨rfl, opField_formatXYN (by decide) n.isLt x y⟩

theorem skp (x : Reg) : Statement (.skp x) := ⟨rfl, opField_formatX (by decide) (by decide) x⟩

theorem sknp (x : Reg) : Statement (.sknp x) := ⟨rfl, opField_formatX (by decide) (by decide) x⟩

theorem ldVxDT (x : Reg) : Statement (.ldVxDT x) := ⟨rfl, opField_formatX (by decide) (by decide) x⟩

theorem ldVxK (x : Reg) : Statement (.ldVxK x) := ⟨rfl, opField_formatX (by decide) (by decide) x⟩

theorem ldDTVx (x : Reg) : Statement (.ldDTVx x) := ⟨rfl, opField_formatX (by decide) (by decide) x⟩

theorem ldSTVx (x : Reg) : Statement (.ldSTVx x) := ⟨rfl, opField_formatX (by decide) (by decide) x⟩

theorem addIVx (x : Reg) : Statement (.addIVx x) := ⟨rfl, opField_formatX (by decide) (by decide) x⟩

theorem ldFVx (x : Reg) : Statement (.ldFVx x) := ⟨rfl, opField_formatX (by decide) (by decide) x⟩

theorem ldBVx (x : Reg) : Statement (.ldBVx x) := ⟨rfl, opField_formatX (by decide) (by decide) x⟩

theorem ldMemVx (x : Reg) : Statement (.ldMemVx x) := ⟨rfl, opField_formatX (by decide) (by decide) x⟩

theorem ldVxMem (x : Reg) : Statement (.ldVxMem x) := ⟨rfl, opField_formatX (by decide) (by decide) x⟩

theorem nop : Statement .nop := ⟨rfl, rfl⟩

end Sys2Proof.Laws.EncodesInFamily
end

