-- ==== Sys2Proof/Machine/Assembly.lean ====
section
/-! DEFINITION. The assembly notation of 30_encoding.md R84: a mnemonic, then operands, the destination first. Notation
only; nothing of the machine depends on it. -/

namespace Sys2Proof

/-- One hexadecimal digit, as in `VA`. -/
def hexDigit (d : Nat) : String := String.singleton (("0123456789ABCDEF".toList).getD d '?')

/-- A number as `digits` hexadecimal digits. -/
def hexDigits : Nat → Nat → String
  | 0, _ => ""
  | digits + 1, n => hexDigits digits (n / 16) ++ hexDigit (n % 16)

/-- `V0` to `VF`. -/
def regName (x : Reg) : String := "V" ++ hexDigit x.val

/-- A byte immediate. -/
def byteText (kk : Byte) : String := "0x" ++ hexDigits 2 kk.toNat

/-- An address immediate. -/
def addrText (nnn : BitVec 12) : String := "0x" ++ hexDigits 3 nnn.toNat

/-- Two operands. -/
def operands (a b : String) : String := a ++ ", " ++ b

/-- An instruction in the notation of R84. -/
def Instr.assembly : Instr → String
  | .cls => "CLS"
  | .ret => "RET"
  | .jp nnn => "JP " ++ addrText nnn
  | .call nnn => "CALL " ++ addrText nnn
  | .seVxKk x kk => "SE " ++ operands (regName x) (byteText kk)
  | .sneVxKk x kk => "SNE " ++ operands (regName x) (byteText kk)
  | .seVxVy x y => "SE " ++ operands (regName x) (regName y)
  | .ldVxKk x kk => "LD " ++ operands (regName x) (byteText kk)
  | .addVxKk x kk => "ADD " ++ operands (regName x) (byteText kk)
  | .ldVxVy x y => "LD " ++ operands (regName x) (regName y)
  | .orVxVy x y => "OR " ++ operands (regName x) (regName y)
  | .andVxVy x y => "AND " ++ operands (regName x) (regName y)
  | .xorVxVy x y => "XOR " ++ operands (regName x) (regName y)
  | .addVxVy x y => "ADD " ++ operands (regName x) (regName y)
  | .subVxVy x y => "SUB " ++ operands (regName x) (regName y)
  | .shrVx x => "SHR " ++ regName x
  | .subnVxVy x y => "SUBN " ++ operands (regName x) (regName y)
  | .shlVx x => "SHL " ++ regName x
  | .sneVxVy x y => "SNE " ++ operands (regName x) (regName y)
  | .ldI nnn => "LD " ++ operands "I" (addrText nnn)
  | .jpV0 nnn => "JP " ++ operands "V0" (addrText nnn)
  | .rnd x kk => "RND " ++ operands (regName x) (byteText kk)
  | .drw x y n => "DRW " ++ operands (regName x) (operands (regName y) ("0x" ++ hexDigit n.val))
  | .skp x => "SKP " ++ regName x
  | .sknp x => "SKNP " ++ regName x
  | .ldVxDT x => "LD " ++ operands (regName x) "DT"
  | .ldVxK x => "LD " ++ operands (regName x) "K"
  | .ldDTVx x => "LD " ++ operands "DT" (regName x)
  | .ldSTVx x => "LD " ++ operands "ST" (regName x)
  | .addIVx x => "ADD " ++ operands "I" (regName x)
  | .ldFVx x => "LD " ++ operands "F" (regName x)
  | .ldBVx x => "LD " ++ operands "B" (regName x)
  | .ldMemVx x => "LD " ++ operands "[I]" (regName x)
  | .ldVxMem x => "LD " ++ operands (regName x) "[I]"
  | .nop => "NOP"

end Sys2Proof
end

