-- ==== Sys2Proof/Tests/Slice0.lean ====
section
/-! SUPPORT. Tests, each on one word or one step, and for every statement with hypotheses a state and operands that meet
them. Expected results are the vectors of 95_test_vectors.md, named in each comment, or are worked out by hand from the rule named. -/

namespace Sys2Proof.Tests

open Sys2Proof.Machine

/-! ## Helpers -/

/-- The reset state with some registers set. -/
def regs (l : List (Reg × Byte)) : State := l.foldl (fun s p => s.setReg p.1 p.2) State.reset

/-- The state after one step. -/
def after (s : State) : State :=
  match step s with
  | .next t => t
  | _ => s

/-- `s` with the word `w` to run next. -/
def run1 (w : Nat) (s : State) : State := after (s.withFetchWord 16 w)

/-- `s` with a sample queued: the keys of `l` down, the random byte `b`. -/
def keys (l : List Key) (b : Byte) (s : State) : State :=
  s.feed { keys := Vector.ofFn fun k => decide (k ∈ l), rnd := b }

/-- `s` with I set and bytes stored from there on. -/
def atI (i : Word) (l : List Byte) (s : State) : State := (s.setI i).writeBytes i.toNat l

/-! ## WellFormed: each check refuses an ill-formed term (00_scope.md R8; 70_reset_and_hazards.md R197) -/

theorem test_default_config_wellFormed : defaultConfig.wellFormed = true := by decide

theorem test_font_over_program_refused :
    Config.wellFormed { defaultConfig with fontBase := 0x1B1 } = false := by decide

theorem test_font_just_below_program_accepted :
    Config.wellFormed { defaultConfig with fontBase := 0x1B0 } = true := by decide

theorem test_program_base_outside_memory_refused :
    Config.wellFormed { defaultConfig with progBase := 0x1000 } = false := by decide

theorem test_program_base_last_cell_accepted :
    Config.wellFormed { defaultConfig with progBase := 0xFFF } = true := by decide

theorem test_image_one_byte_too_long_refused :
    Config.imageFits { defaultConfig with progBase := 0xFFE } [1, 2, 3] = false := by decide

theorem test_image_to_last_cell_accepted :
    Config.imageFits { defaultConfig with progBase := 0xFFE } [1, 2] = true := by decide

theorem test_instructions_are_wellFormed : (Instr.drw 15 15 15).wellFormed = true ∧ Instr.nop.wellFormed = true := by
  decide

/-! ## Decode: words written out from the patterns of 30_encoding.md R82, every constructor -/

theorem test_decode_family0 :
    decodeWord 0b0000_0000_1110_0000 = .cls ∧ decodeWord 0b0000_0000_1110_1110 = .ret ∧
    decodeWord 0b0000_0000_0000_0001 = .nop := by decide

theorem test_decode_addresses :
    decodeWord 0b0001_0010_0011_0100 = .jp 0x234 ∧ decodeWord 0b0010_0011_0000_0000 = .call 0x300 ∧
    decodeWord 0b1010_0010_1111_0000 = .ldI 0x2F0 ∧ decodeWord 0b1011_0011_0000_0001 = .jpV0 0x301 := by decide

theorem test_decode_register_byte :
    decodeWord 0b0011_0011_0010_1010 = .seVxKk 3 0x2A ∧ decodeWord 0b0100_0011_0010_1010 = .sneVxKk 3 0x2A ∧
    decodeWord 0b0110_0000_0000_0101 = .ldVxKk 0 0x05 ∧ decodeWord 0b0111_0010_0000_0011 = .addVxKk 2 0x03 ∧
    decodeWord 0b1100_0011_0000_1111 = .rnd 3 0x0F := by decide

theorem test_decode_two_registers :
    decodeWord 0b0101_0001_0010_0000 = .seVxVy 1 2 ∧ decodeWord 0b1001_0001_0010_0000 = .sneVxVy 1 2 ∧
    decodeWord 0b1101_0001_0010_0101 = .drw 1 2 5 := by decide

theorem test_decode_family8_moves :
    decodeWord 0b1000_0001_0000_0000 = .ldVxVy 1 0 ∧ decodeWord 0b1000_0001_0010_0001 = .orVxVy 1 2 ∧
    decodeWord 0b1000_0001_0010_0010 = .andVxVy 1 2 ∧ decodeWord 0b1000_0001_0010_0011 = .xorVxVy 1 2 := by decide

theorem test_decode_family8_arithmetic :
    decodeWord 0b1000_0001_0010_0100 = .addVxVy 1 2 ∧ decodeWord 0b1000_0001_0010_0101 = .subVxVy 1 2 ∧
    decodeWord 0b1000_0001_0000_0110 = .shrVx 1 ∧ decodeWord 0b1000_0001_0010_0111 = .subnVxVy 1 2 ∧
    decodeWord 0b1000_0001_0000_1110 = .shlVx 1 := by decide

theorem test_decode_keys :
    decodeWord 0b1110_0001_1001_1110 = .skp 1 ∧ decodeWord 0b1110_0001_1010_0001 = .sknp 1 ∧
    decodeWord 0b1111_0100_0000_1010 = .ldVxK 4 := by decide

theorem test_decode_timers :
    decodeWord 0b1111_0011_0000_0111 = .ldVxDT 3 ∧ decodeWord 0b1111_0011_0001_0101 = .ldDTVx 3 ∧
    decodeWord 0b1111_0011_0001_1000 = .ldSTVx 3 := by decide

theorem test_decode_index :
    decodeWord 0b1111_0100_0001_1110 = .addIVx 4 ∧ decodeWord 0b1111_0010_0010_1001 = .ldFVx 2 ∧
    decodeWord 0b1111_0011_0011_0011 = .ldBVx 3 ∧ decodeWord 0b1111_0010_0101_0101 = .ldMemVx 2 ∧
    decodeWord 0b1111_0010_0110_0101 = .ldVxMem 2 := by decide

/-- Ignored bits and no-ops, from the decode table of 95_test_vectors.md. -/
theorem test_decode_ignored_bits :
    decodeWord 0x0000 = .cls ∧ decodeWord 0x0FF0 = .cls ∧ decodeWord 0x0ABE = .ret ∧ decodeWord 0x512F = .seVxVy 1 2 ∧
    decodeWord 0x9123 = .sneVxVy 1 2 ∧ decodeWord 0x8126 = .shrVx 1 ∧ decodeWord 0x812E = .shlVx 1 ∧
    decodeWord 0xE10E = .skp 1 ∧ decodeWord 0xE101 = .sknp 1 := by decide

theorem test_decode_nops :
    decodeWord 0x00E1 = .nop ∧ decodeWord 0x8128 = .nop ∧ decodeWord 0x812F = .nop ∧ decodeWord 0xE19F = .nop ∧
    decodeWord 0xF10B = .nop ∧ decodeWord 0xF185 = .nop := by decide

theorem test_decode_one_byte_refused : decode [0x12] = .error .truncated := by decide

theorem test_decode_leaves_the_rest : decode [0x12, 0x34, 0x56] = .ok (.jp 0x234, [0x56]) := by rfl

theorem test_decodeTableWord_ret : decodeTableWord 16 0x00EE = some .ret := by decide

/-- The notation of 30_encoding.md R84. -/
theorem test_assembly : (Instr.ldVxKk 0 0x05).assembly = "LD V0, 0x05" ∧ (Instr.ldMemVx 10).assembly = "LD [I], VA" ∧
    (Instr.jp 0x20A).assembly = "JP 0x20A" := by decide

/-! ## The step (vectors T1 to T6) -/

/-- Whether a step completes. -/
def completes (s : State) : Bool :=
  match step s with
  | .next t => t.fault.isNone
  | _ => false

/-- The canonical word of every row but RET's runs as the first instruction after reset, the free inputs included. -/
theorem test_rows_run_from_reset :
    ([0x00E0, 0x1234, 0x2234, 0x3123, 0x4123, 0x5120, 0x6123, 0x7123, 0x8120, 0x8121, 0x8122, 0x8123] ++
      [0x8124, 0x8125, 0x8106, 0x8127, 0x810E, 0x9120, 0xA123, 0xB123, 0xC123, 0xD125, 0xE19E, 0xE1A1] ++
      [0xF107, 0xF10A, 0xF115, 0xF118, 0xF11E, 0xF129, 0xF133, 0xF155, 0xF165, 0x0001]).all
      (fun w => completes (State.reset.withFetchWord 16 w)) = true := by decide

theorem test_t1_nop_ticks : (run1 0x0001 (State.reset.setDT 3)).dt = 2 ∧ (run1 0x0001 State.reset).pc = 0x0202 := by
  decide

theorem test_t2_fetch_wraps : (run1 0x1234 (State.reset.jump 0x0FFF)).pc = 0x0234 := by decide

theorem test_t5_pc_is_not_reduced : (run1 0x0001 (State.reset.jump 0x0FFF)).pc = 0x1001 := by decide

theorem test_t6_faulted_step : step (State.reset.raise .stackOverflow) = .next (State.reset.raise .stackOverflow) := by rfl

/-! ## Control transfer (J1 to J27) -/

theorem test_j4_call : (run1 0x2300 State.reset).pc = 0x0300 ∧ (run1 0x2300 State.reset).sp = 1 ∧
    (run1 0x2300 State.reset).stack[0] = 0x0202 := by decide

theorem test_j6_overflow : (run1 0x2300 { State.reset with sp := 16, dt := 5 }).faultCode = 1 ∧
    (run1 0x2300 { State.reset with sp := 16, dt := 5 }).pc = 0x0200 ∧
    (run1 0x2300 { State.reset with sp := 16, dt := 5 }).dt = 5 := by decide

theorem test_j8_ret : (run1 0x00EE { State.reset with sp := 1, stack := State.reset.stack.set 0 0x0202 }).pc = 0x0202 ∧
    (run1 0x00EE { State.reset with sp := 1, stack := State.reset.stack.set 0 0x0202 }).sp = 0 := by decide

theorem test_j9_underflow : (run1 0x00EE State.reset).faultCode = 2 ∧ (run1 0x00EE State.reset).pc = 0x0200 := by decide

theorem test_j1_jp : (run1 0x1234 State.reset).pc = 0x0234 := by decide

theorem test_j24_jpV0_exceeds_12_bits : (run1 0xBFFF (regs [(0, 0xFF)])).pc = 0x10FE := by decide

theorem test_j11_j12_se : (run1 0x332A (regs [(3, 0x2A)])).pc = 0x0204 ∧ (run1 0x332A (regs [(3, 0x2B)])).pc = 0x0202 := by
  decide

theorem test_j13_j14_sne : (run1 0x432A (regs [(3, 0x2A)])).pc = 0x0202 ∧ (run1 0x432A (regs [(3, 0x2B)])).pc = 0x0204 := by
  decide

theorem test_j15_j16_se : (run1 0x5120 (regs [(1, 7), (2, 7)])).pc = 0x0204 ∧
    (run1 0x5120 (regs [(1, 7), (2, 8)])).pc = 0x0202 := by decide

theorem test_j19_j20_sne : (run1 0x9120 (regs [(1, 7), (2, 8)])).pc = 0x0204 ∧
    (run1 0x9120 (regs [(1, 7), (2, 7)])).pc = 0x0202 := by decide

/-! ## Loads and the ALU (A1 to A50) -/

theorem test_a1_load : (run1 0x6005 State.reset).reg 0 = 0x05 := by decide

theorem test_a3_add_immediate_wraps : (run1 0x7203 (regs [(2, 0xFE)])).reg 2 = 0x01 ∧
    (run1 0x7203 (regs [(2, 0xFE)])).reg vf = 0 := by decide

theorem test_a5_move : (run1 0x8100 (regs [(0, 5)])).reg 1 = 5 := by decide

theorem test_a6_or : (run1 0x8121 (regs [(1, 0xF0), (2, 0x0C), (15, 1)])).reg 1 = 0xFC ∧
    (run1 0x8121 (regs [(1, 0xF0), (2, 0x0C), (15, 1)])).reg vf = 1 := by decide

theorem test_a7_and : (run1 0x8122 (regs [(1, 0xF0), (2, 0x3C)])).reg 1 = 0x30 := by decide

theorem test_a8_xor : (run1 0x8123 (regs [(1, 0xF0), (2, 0x3C)])).reg 1 = 0xCC := by decide

theorem test_a11_add_sum_256 : (run1 0x8124 (regs [(1, 0xFF), (2, 0x01)])).reg 1 = 0 ∧
    (run1 0x8124 (regs [(1, 0xFF), (2, 0x01)])).reg vf = 1 := by decide

theorem test_a16_add_flag_last : (run1 0x8F24 (regs [(15, 0xFF), (2, 0x03)])).reg vf = 1 := by decide

theorem test_a21_sub_equal : (run1 0x8125 (regs [(1, 0x33), (2, 0x33)])).reg 1 = 0 ∧
    (run1 0x8125 (regs [(1, 0x33), (2, 0x33)])).reg vf = 0 := by decide

theorem test_a20_sub_borrows : (run1 0x8125 (regs [(1, 0x10), (2, 0x20), (15, 1)])).reg 1 = 0xF0 ∧
    (run1 0x8125 (regs [(1, 0x10), (2, 0x20), (15, 1)])).reg vf = 0 := by decide

theorem test_a36_shr_ignores_y : (run1 0x8126 (regs [(1, 0xFF)])).reg 1 = 0x7F ∧
    (run1 0x8126 (regs [(1, 0xFF)])).reg vf = 1 := by decide

theorem test_a31_subn_reads_old_flag : (run1 0x81F7 (regs [(1, 4), (15, 9)])).reg 1 = 5 ∧
    (run1 0x81F7 (regs [(1, 4), (15, 9)])).reg vf = 1 := by decide

theorem test_a39_shl : (run1 0x810E (regs [(1, 0x81)])).reg 1 = 2 ∧ (run1 0x810E (regs [(1, 0x81)])).reg vf = 1 := by
  decide

theorem test_a47_rnd : (run1 0xC30F (keys [] 0xA7 State.reset)).reg 3 = 0x07 := by decide

/-! ## The index register and memory (M1 to M27) -/

theorem test_m1_load_index : (run1 0xAFFF (State.reset.setI 0xFFFF)).i = 0x0FFF := by decide

theorem test_m4_add_index_wraps : (run1 0xF41E ((regs [(4, 2)]).setI 0xFFFF)).i = 0x0001 := by decide

theorem test_m11_glyph_of_the_whole_byte : (run1 0xF229 (regs [(2, 0xFF)])).i = 0x054B := by decide

theorem test_m18_digits_wrap : (run1 0xF333 ((regs [(3, 234)]).setI 0x0FFF)).readByte 0xFFF = 2 ∧
    (run1 0xF333 ((regs [(3, 234)]).setI 0x0FFF)).readByte 0x000 = 3 ∧
    (run1 0xF333 ((regs [(3, 234)]).setI 0x0FFF)).readByte 0x001 = 4 := by decide

theorem test_m20_store_registers :
    (run1 0xF255 ((regs [(0, 0x11), (1, 0x22), (2, 0x33), (3, 0x44)]).setI 0x300)).readByte 0x302 = 0x33 ∧
    (run1 0xF255 ((regs [(0, 0x11), (1, 0x22), (2, 0x33), (3, 0x44)]).setI 0x300)).readByte 0x303 = 0 := by decide

theorem test_m24_load_registers :
    (run1 0xF265 (atI 0x300 [0xAA, 0xBB, 0xCC, 0xDD] (regs [(3, 0x99)]))).reg 2 = 0xCC ∧
    (run1 0xF265 (atI 0x300 [0xAA, 0xBB, 0xCC, 0xDD] (regs [(3, 0x99)]))).reg 3 = 0x99 := by decide

theorem test_reset_memory_holds_the_font :
    State.reset.readByte 0x04F = 0 ∧ State.reset.readByte 0x050 = 0xF0 ∧ State.reset.readByte 0x056 = 0x60 ∧
    State.reset.readByte 0x09E = 0x80 ∧ State.reset.readByte 0x09F = 0x80 ∧ State.reset.readByte 0x0A0 = 0 := by decide

/-- Writing what a cell reads as at reset takes its entry away. -/
theorem test_memory_is_canonical :
    ((State.reset.writeByte 0x300 7).writeByte 0x300 0).mem = [] ∧ (State.reset.writeByte 0x050 0xF0).mem = [] := by decide

/-! ## Timers and keys (K1 to K24) -/

theorem test_k1_read_timer : (run1 0xF307 (State.reset.setDT 0x0A)).reg 3 = 0x0A ∧
    (run1 0xF307 (State.reset.setDT 0x0A)).dt = 0x09 := by decide

theorem test_k4_set_then_tick : (run1 0xF315 (regs [(3, 5)])).dt = 4 := by decide

theorem test_k9_sound_of_one_is_never_seen : (run1 0xF318 (regs [(3, 1)])).soundActive = false ∧
    (run1 0xF318 (regs [(3, 2)])).soundActive = true := by decide

theorem test_k15_key_number_low_bits : (run1 0xE19E (keys [10] 0 (regs [(1, 0x1A)]))).pc = 0x0204 ∧
    (run1 0xE19E (keys [] 0 (regs [(1, 5)]))).pc = 0x0202 := by decide

theorem test_k13_k14_skip_if_up : (run1 0xE1A1 (keys [] 0 (regs [(1, 5)]))).pc = 0x0204 ∧
    (run1 0xE1A1 (keys [5] 0 (regs [(1, 5)]))).pc = 0x0202 := by decide

theorem test_k20_wait : (run1 0xF40A (keys [] 0 (regs [(4, 0xEE)]))).pc = 0x0200 ∧
    (run1 0xF40A (keys [] 0 (regs [(4, 0xEE)]))).reg 4 = 0xEE ∧
    (run1 0xF40A (keys [] 0 ((regs [(4, 0xEE)]).setDT 5))).dt = 4 := by decide

theorem test_k21_lowest_key : (run1 0xF40A (keys [3, 9] 0 (regs [(4, 0xEE)]))).reg 4 = 3 ∧
    (run1 0xF40A (keys [3, 9] 0 (regs [(4, 0xEE)]))).pc = 0x0202 := by decide

/-! ## The display (D1 to D12) -/

theorem test_d1_cls : (run1 0x00E0 (State.reset.setScreen (Screen.flip Screen.dark 31 63))).pixel 31 63 = false := by decide

theorem test_d3_draw_wraps : (run1 0xD011 (atI 0x300 [0xC0] (regs [(0, 63), (1, 31)]))).pixel 31 63 = true ∧
    (run1 0xD011 (atI 0x300 [0xC0] (regs [(0, 63), (1, 31)]))).pixel 31 0 = true ∧
    (run1 0xD011 (atI 0x300 [0xC0] (regs [(0, 63), (1, 31)]))).reg vf = 0 := by decide

theorem test_d7_draw_collides :
    (run1 0xD012 (atI 0x300 [0xFF, 0x0F] (State.reset.setScreen (Screen.flip Screen.dark 0 0)))).pixel 0 0 = false ∧
    (run1 0xD012 (atI 0x300 [0xFF, 0x0F] (State.reset.setScreen (Screen.flip Screen.dark 0 0)))).pixel 1 4 = true ∧
    (run1 0xD012 (atI 0x300 [0xFF, 0x0F] (State.reset.setScreen (Screen.flip Screen.dark 0 0)))).reg vf = 1 := by decide

/-! ## Load and reset -/

theorem test_boot_loads : (match State.boot defaultConfig [0x60, 0x05] with
    | .ok t => some t.fetchWord
    | .error _ => none) = some 0x6005 := by decide

theorem test_boot_refuses : State.boot { defaultConfig with progBase := 0xFFF } [1, 2] = .error .oversized := by rfl

theorem test_host_reset_clears_the_latch : (State.reset.raise .stackOverflow).hostReset.faultCode = 0 := by decide

/-! ## Witnesses: states and operands that meet the hypotheses of each statement -/

theorem witness_ResetLeavesTheSpecValues : defaultConfig.wellFormed = true ∧
    (0 < 4096 ∧ 0 < defaultConfig.fontBase.toNat) ∧ (4095 < 4096 ∧ defaultConfig.fontBase.toNat + 80 ≤ 4095) := by decide

theorem witness_ResetMeetsTheInvariant : defaultConfig.wellFormed = true := by decide

theorem witness_BootLoadsTheImageOrRefusesIt : Config.wellFormed { defaultConfig with progBase := 0xFFE } = true ∧
    [1, 2].length ≤ 4096 - (0xFFE#16).toNat ∧ 4096 - (0xFFE#16).toNat < [1, 2, 3].length := by decide

theorem witness_PlacedWordRunsNext : StateInv State.reset := by exact ⟨by decide, by decide⟩

theorem witness_DecodeOfEncodeIsIdentity : (Instr.drw 1 2 5).wellFormed = true := by decide

/-- A CALL that completes. -/
theorem witness_StepRunsTheDecodedInstruction_completes :
    ∃ t, (State.reset.withFetchWord 16 0x2300).fault = none ∧
      decode [(State.reset.withFetchWord 16 0x2300).readByte 0x200, (State.reset.withFetchWord 16 0x2300).readByte 0x201] =
        .ok (.call 0x300, []) ∧
      exec (.call 0x300) { State.reset.withFetchWord 16 0x2300 with pc := 0x202 } = .next t ∧ t.fault = none :=
  ⟨_, rfl, rfl, rfl, rfl⟩

/-- A RET that faults. -/
theorem witness_StepRunsTheDecodedInstruction_faults :
    ∃ t, (State.reset.withFetchWord 16 0x00EE).fault = none ∧
      decode [(State.reset.withFetchWord 16 0x00EE).readByte 0x200, (State.reset.withFetchWord 16 0x00EE).readByte 0x201] =
        .ok (.ret, []) ∧
      exec .ret { State.reset.withFetchWord 16 0x00EE with pc := 0x202 } = .next t ∧ t.fault = some .stackUnderflow :=
  ⟨_, rfl, rfl, rfl, rfl⟩

/-- For `StepIsTotalAndStopsOnFault` and `FaultIsStickyAlongRuns`. -/
theorem witness_faulted : (State.reset.raise .stackUnderflow).fault ≠ none := by decide

/-- `FaultIsStickyAlongRuns`, second clause: a safe run of one step. -/
theorem witness_safe_run : SafeRun 1 (State.reset.withFetchWord 16 0x0001) := ⟨_, rfl, rfl⟩

/-- For the statements about a step of a running machine that completes: a NOP. It meets the hypotheses of
`TimersTickOncePerStep`, `PcAfterEveryStep`, `OnlyCallAndRetTouchTheStack`, `OnlyTwoInstructionsStore`,
`OnlyClsAndDrwChangePixels`, `OnlyThreeInstructionsWriteI`, `RegistersChangeOnlyAsDestinationOrFlag`,
`ConfigStaysAndOneSampleIsUsed`, `StepKeepsTheInvariant`, `FaultsAreExactlyOverflowAndUnderflow`, `NopDoesNothing`. -/
theorem witness_running_nop : ∃ t, (State.reset.withFetchWord 16 0x0001).fault = none ∧
    (State.reset.withFetchWord 16 0x0001).nextInstr = .nop ∧ StateInv (State.reset.withFetchWord 16 0x0001) ∧
    step (State.reset.withFetchWord 16 0x0001) = .next t ∧ t.fault = none ∧ hasDest .nop 0 = false ∧ writesFlag .nop = false :=
  ⟨_, rfl, by decide, ⟨by decide, by decide⟩, rfl, rfl, rfl, rfl⟩

/-- `RegistersChangeOnlyAsDestinationOrFlag`, first clause: an ADD. -/
theorem witness_running_add : ∃ t, (State.reset.withFetchWord 16 0x8124).fault = none ∧
    step (State.reset.withFetchWord 16 0x8124) = .next t ∧
    writesFlag (State.reset.withFetchWord 16 0x8124).nextInstr = true :=
  ⟨_, rfl, rfl, by decide⟩

/-- `FaultsAreExactlyOverflowAndUnderflow`, its faulting clauses, and `CallAndRetFaultAtTheEnds`: RET with SP = 0, CALL
with SP = 16. -/
theorem witness_faulting_steps :
    (State.reset.withFetchWord 16 0x00EE).nextInstr = .ret ∧ (State.reset.withFetchWord 16 0x00EE).sp.val = 0 ∧
    (State.withFetchWord { State.reset with sp := 16 } 16 0x2300).nextInstr = .call 0x300 ∧
    (State.withFetchWord { State.reset with sp := 16 } 16 0x2300).sp.val = 16 ∧
    (State.withFetchWord { State.reset with sp := 16 } 16 0x2300).fault = none := by decide

/-- Two aliased states whose pc, I and stack differ. -/
theorem witness_AliasedMachinesStepAlike :
    Alias State.reset { State.reset with pc := 0x1200, i := 0x1000, stack := State.reset.stack.set 0 0x1000 } := by
  refine ⟨by decide, by decide, by decide, rfl⟩

/-- Two states that differ in the inputs, before a NOP. -/
theorem witness_OnlyFourInstructionsSeeTheInputs :
    SameButInputs (State.reset.withFetchWord 16 0x0001) (keys [3] 7 (State.reset.withFetchWord 16 0x0001)) ∧
    readsInput (State.reset.withFetchWord 16 0x0001).nextInstr = false := ⟨rfl, by decide⟩

/-- One step of a NOP with DT = 3. -/
theorem witness_DelayTimerCountsStepsDown :
    ∃ t, Runs 1 (State.withFetchWord (State.reset.setDT 3) 16 0x0001) t ∧ t.fault = none ∧
      ∀ j < 1, ∀ u, Runs j (State.withFetchWord (State.reset.setDT 3) 16 0x0001) u → ∀ x, u.nextInstr ≠ .ldDTVx x := by
  refine ⟨_, rfl, rfl, fun j hj u hu x => ?_⟩
  obtain rfl : j = 0 := by omega
  cases hu
  have h : (State.withFetchWord (State.reset.setDT 3) 16 0x0001).nextInstr = .nop := by decide
  rw [h]
  exact fun e => Instr.noConfusion e

/-- LD [I],V1 at 0x200 with I = 0x202. -/
theorem witness_StoredInstructionIsFetchedNext :
    (State.withFetchWord (State.reset.setI 0x202) 16 0xF155).nextInstr = .ldMemVx 1 ∧
    (State.withFetchWord (State.reset.setI 0x202) 16 0xF155).fault = none ∧
    (State.withFetchWord (State.reset.setI 0x202) 16 0xF155).i.toNat % 4096 =
      ((State.withFetchWord (State.reset.setI 0x202) 16 0xF155).pc.toNat + 2) % 4096 ∧
    StateInv (State.withFetchWord (State.reset.setI 0x202) 16 0xF155) :=
  ⟨by decide, by decide, by decide, ⟨by decide, by decide⟩⟩

/-- Room for one entry only, and one entry only. -/
theorem witness_CallPushesAndJumps_RetPopsIntoThePc :
    (State.sp { State.reset with sp := 15 }).val < 16 ∧ 0 < (State.sp { State.reset with sp := 1 }).val := by decide

/-- CALL 0x300 with a RET there. -/
theorem witness_CallThenRetReturns :
    let s := State.withFetchWord (State.reset.writeBytes 0x300 [0x00, 0xEE]) 16 0x2300
    s.fault = none ∧ s.sp.val < 16 ∧ s.nextInstr = .call 0x300 ∧
      decodeWord (wordOfBytes (s.readByte 0x300) (s.readByte 0x301)) = .ret := by decide

theorem witness_SkipsOnKeysMoveOnlyThePc : (10 : Key).val = ((regs [(1, 0x1A)]).reg 1).toNat % 16 := by decide

/-- `StoreDigits`, `StoreRegisters`, and the configuration clause of `LoadsOfTheIndexRegister`. -/
theorem witness_canonical_memory : Memory.wf State.reset.cfg State.reset.mem = true ∧ State.reset.cfg.wellFormed = true := by
  decide

/-- The boundary operand of the flag writers' second clause, x ≠ VF. -/
theorem witness_not_vf : (14 : Reg) ≠ vf ∧ (0 : Reg) ≠ vf := by decide

/-- A key down with none below it, and no key down. -/
theorem witness_KeyReadTakesTheLowestKeyOrHolds :
    (keys [15] 0 State.reset).sample.keys[(15 : Fin 16)] = true ∧
    (∀ j < (15 : Key), (keys [15] 0 State.reset).sample.keys[j] = false) ∧
    (∀ k : Key, (keys [] 0 State.reset).sample.keys[k] = false) := by decide

theorem witness_KeyWaitHoldsWhileNoKeyIsDown :
    let s := keys [] 0 (State.reset.withFetchWord 16 0xF40A)
    s.fault = none ∧ s.nextInstr = .ldVxK 4 ∧ 1 ≤ s.inputs.length ∧
      ∀ m ∈ s.inputs.take 1, ∀ j : Key, m.keys[j] = false := by decide

/-- A pixel a sprite covers, and one it does not. -/
theorem witness_DrawInvertsTheCoveredPixels :
    (atI 0x300 [0x80] State.reset).spriteCovers 0 1 1 0 0 ∧ ¬ (atI 0x300 [0x80] State.reset).spriteCovers 0 1 1 1 0 := by
  constructor
  · exact ⟨0, by decide, 0, by decide, by decide, by decide, by decide⟩
  · rintro ⟨r, hr, c, -, h, -⟩
    obtain rfl : r = 0 := by omega
    revert h
    decide

theorem witness_DrawTwiceRestoresTheScreen : (0 : Reg) ≠ vf ∧ (1 : Reg) ≠ vf := by decide

end Sys2Proof.Tests
end

namespace Sys2Proof.Machine

/-! ## A step of a running machine that raises no fault (40_step_cycle.md R95) -/

/-- The step a completing execute phase gives. -/
theorem step_of_exec {s u : State} (hs : s.fault = none) (h : exec s.nextInstr s.preIncrement = .next u)
    (hu : u.fault = none) : step s = .next u.tick.nextSample := by
  have he : exec (decodeWord s.fetchWord) s.preIncrement = .next u := h
  simp only [step_eq, hs, he, State.settle_of_none hu]

/-- The execute phase a completed step had. -/
theorem exec_of_step {s t : State} (hs : s.fault = none) (h : step s = .next t) (ht : t.fault = none) :
    ∃ u, exec s.nextInstr s.preIncrement = .next u ∧ u.fault = none ∧ t = u.tick.nextSample := by
  obtain ⟨hf, -⟩ | ⟨-, u, hu, ⟨huf, rfl⟩ | ⟨f, -, rfl⟩⟩ := step_cases h
  · exact absurd hs hf
  · exact ⟨u, hu, huf, rfl⟩
  · cases ht

/-- The instruction sees the registers the step began with. -/
@[simp] theorem State.reg_preIncrement (s : State) (x : Reg) : s.preIncrement.reg x = s.reg x := State.reg_congr rfl x

/-! ## The timers (40_step_cycle.md R93) -/

theorem State.tick_nextSample_dt_toNat (u : State) : u.tick.nextSample.dt.toNat = u.dt.toNat - 1 :=
  tickByte_toNat u.dt

theorem State.tick_nextSample_st_toNat (u : State) : u.tick.nextSample.st.toNat = u.st.toNat - 1 :=
  tickByte_toNat u.st

/-- The execute phase leaves a timer as it is, but for the one instruction that sets it. -/
theorem exec_keeps_timers {i : Instr} {s u : State} (h : exec i s = .next u) :
    ((∀ x, i ≠ .ldDTVx x) → u.dt = s.dt) ∧ ((∀ x, i ≠ .ldSTVx x) → u.st = s.st) := by
  cases i
  case ldDTVx x => cases h; exact ⟨fun hne => absurd rfl (hne x), fun _ => rfl⟩
  case ldSTVx x => cases h; exact ⟨fun _ => rfl, fun hne => absurd rfl (hne x)⟩
  case ret =>
    obtain ⟨-, he⟩ | ⟨t, w, hp, he⟩ := execRet_cases s <;> cases he.symm.trans h
    · simp
    · obtain ⟨-, rfl, -⟩ := State.pop_eq_some hp
      simp
  case call nnn =>
    obtain ⟨-, he⟩ | ⟨t, hp, he⟩ := execCall_cases nnn s <;> cases he.symm.trans h
    · simp
    · obtain ⟨-, rfl⟩ := State.push_eq_some hp
      simp
  case ldBVx x | ldMemVx x =>
    cases h
    rw [State.writeBytes_eq]
    simp
  all_goals
    cases h
    simp

theorem exec_ldDTVx_dt {x : Reg} {s u : State} (h : exec (.ldDTVx x) s = .next u) : u.dt = s.reg x := by
  cases h; rfl

theorem exec_ldSTVx_st {x : Reg} {s u : State} (h : exec (.ldSTVx x) s = .next u) : u.st = s.reg x := by
  cases h; rfl

/-- Settles O15: the instruction leaves a timer as it was or sets it to V[x], and the tick then takes one. -/
theorem timersTickOncePerStep : Obligations.TimersTickOncePerStep := by
  intro s t hs h ht
  obtain ⟨u, hu, -, rfl⟩ := exec_of_step hs h ht
  obtain ⟨hdt, hst⟩ := exec_keeps_timers hu
  rw [State.tick_nextSample_dt_toNat, State.tick_nextSample_st_toNat]
  constructor
  · split
    next x hi => rw [exec_ldDTVx_dt (hi ▸ hu), State.reg_preIncrement]
    next hi => rw [hdt hi, State.preIncrement_dt]
  · split
    next x hi => rw [exec_ldSTVx_st (hi ▸ hu), State.reg_preIncrement]
    next hi => rw [hst hi, State.preIncrement_st]

/-! ## NOP (40_step_cycle.md R94) -/

theorem exec_nop (s : State) : exec .nop s = .next s := rfl

/-- What a step does apart from its instruction reaches the pc, the timers and the inputs only. -/
theorem State.preIncrement_tick_nextSample_changesOnly (s : State) :
    ChangesOnly (fun p => p = .pc ∨ p = .delayTimer ∨ p = .soundTimer ∨ p = .inputs) s
      s.preIncrement.tick.nextSample := by
  intro p hp
  cases p
  case pc | delayTimer | soundTimer | inputs => simp at hp
  all_goals rfl

/-- Settles O28: the execute phase answers its state, so the step is the pre-increment, the tick and the used sample. -/
theorem nopDoesNothing : Obligations.NopDoesNothing := by
  intro s
  refine ⟨exec_nop s, fun hs hi => ⟨s.preIncrement.tick.nextSample, ?_, rfl, ?_, ?_, ?_⟩⟩
  · exact step_of_exec hs (hi ▸ exec_nop s.preIncrement) hs
  · exact State.tick_nextSample_dt_toNat s.preIncrement
  · exact State.tick_nextSample_st_toNat s.preIncrement
  · exact s.preIncrement_tick_nextSample_changesOnly

end Sys2Proof.Machine

namespace Sys2Proof.Machine

/-! ## Jumps (41_control_transfer.md R101) -/

/-- The 12 bits of an address fit a word. -/
@[simp] theorem zext_toNat (nnn : BitVec 12) : (zext nnn).toNat = nnn.toNat :=
  BitVec.toNat_setWidth_of_le (by decide)

theorem State.jump_changesOnly (s : State) (target : Word) : ChangesOnly (· = .pc) s (s.jump target) := by
  intro p hp
  cases p
  case pc => exact absurd rfl hp
  case inputs => exact ⟨rfl, rfl⟩
  all_goals rfl

theorem exec_jp (nnn : BitVec 12) (s : State) : exec (.jp nnn) s = .next (s.jump (zext nnn)) := rfl

/-- Settles O29: the meaning is a jump to the zero-extended operand. -/
theorem jpSetsThePc : Obligations.JpSetsThePc := fun s nnn =>
  ⟨s.jump (zext nnn), exec_jp nnn s, zext_toNat nnn, s.jump_changesOnly _⟩

/-! ## Skips on values (41_control_transfer.md R103 to R106) -/

/-- A skip taken when `c` holds. -/
theorem State.skipIf_decide (s : State) (c : Prop) [Decidable c] :
    s.skipIf (decide c) = { s with pc := if c then s.pc + 2 else s.pc } := by
  simp only [State.skipIf, decide_eq_true_eq]

/-- A skip taken when `c` fails. -/
theorem State.skipIf_decide_not (s : State) (c : Prop) [Decidable c] :
    s.skipIf (decide ¬c) = { s with pc := if c then s.pc else s.pc + 2 } := by
  rw [State.skipIf_decide, ite_not]

theorem exec_seVxKk (x : Reg) (kk : Byte) (s : State) :
    exec (.seVxKk x kk) s = .next (s.skipIf (decide (s.reg x = kk))) := rfl

theorem exec_sneVxKk (x : Reg) (kk : Byte) (s : State) :
    exec (.sneVxKk x kk) s = .next (s.skipIf (decide ¬s.reg x = kk)) := rfl

theorem exec_seVxVy (x y : Reg) (s : State) :
    exec (.seVxVy x y) s = .next (s.skipIf (decide (s.reg x = s.reg y))) := rfl

theorem exec_sneVxVy (x y : Reg) (s : State) :
    exec (.sneVxVy x y) s = .next (s.skipIf (decide ¬s.reg x = s.reg y)) := rfl

/-- Settles O35: SE skips on the equality, SNE on its negation, and a skip moves the pc alone. -/
theorem skipsOnValuesMoveOnlyThePc : Obligations.SkipsOnValuesMoveOnlyThePc := by
  intro s x y kk
  refine ⟨?_, ?_, ?_, ?_⟩
  · rw [exec_seVxKk, State.skipIf_decide]
  · rw [exec_sneVxKk, State.skipIf_decide_not]
  · rw [exec_seVxVy, State.skipIf_decide]
  · rw [exec_sneVxVy, State.skipIf_decide_not]

end Sys2Proof.Machine

namespace Sys2Proof.Machine

/-! ## Frames of one change after another -/

theorem Part.same_trans {p : Part} {s t u : State} (hst : p.same s t) (htu : p.same t u) : p.same s u := by
  cases p
  case inputs => exact ⟨htu.1.trans hst.1, htu.2.trans hst.2⟩
  all_goals exact Eq.trans htu hst

theorem ChangesOnly.trans {written written' : Part → Prop} {s t u : State} (hst : ChangesOnly written s t)
    (htu : ChangesOnly written' t u) : ChangesOnly (fun p => written p ∨ written' p) s u := fun p hp =>
  Part.same_trans (hst p fun h => hp (.inl h)) (htu p fun h => hp (.inr h))

/-! ## What an ALU operation writes: V[x], and for some VF (42_load_alu.md, 10_state.md R22) -/

theorem State.reg_setReg_same (s : State) (x : Reg) (b : Byte) : (s.setReg x b).reg x = b := by
  rw [State.reg_setReg, if_pos rfl]

theorem State.setReg_changesOnly (s : State) (x : Reg) (b : Byte) : ChangesOnly (· = .reg x) s (s.setReg x b) := by
  intro p hp
  cases p
  case reg r =>
    have hr : r ≠ x := fun e => hp (congrArg Part.reg e)
    exact (State.reg_setReg s x b r).trans (if_neg hr)
  case inputs => exact ⟨rfl, rfl⟩
  all_goals rfl

/-- VF ends as the flag for every `x`, VF included. -/
theorem State.reg_setRegFlag_vf (s : State) (x : Reg) (b : Byte) (flag : Bool) :
    (s.setRegFlag x b flag).reg vf = if flag then 1 else 0 := by
  rw [State.reg_setRegFlag, if_pos rfl]

theorem State.reg_setRegFlag_dest (s : State) {x : Reg} (hx : x ≠ vf) (b : Byte) (flag : Bool) :
    (s.setRegFlag x b flag).reg x = b := by
  rw [State.reg_setRegFlag, if_neg hx, if_pos rfl]

/-- The two writes one after the other, V[x] and then VF. -/
theorem State.setRegFlag_changesOnly (s : State) (x : Reg) (b : Byte) (flag : Bool) :
    ChangesOnly (fun p => p = .reg x ∨ p = .reg vf) s (s.setRegFlag x b flag) :=
  (s.setReg_changesOnly x b).trans ((s.setReg x b).setReg_changesOnly vf _)

/-! ## Results and flags as numbers (42_load_alu.md R132) -/

theorem sumByte_toNat (a b : Byte) : (sumByte a b).toNat = (a.toNat + b.toNat) % 256 := BitVec.toNat_ofNat _ 8

theorem diffByte_toNat (a b : Byte) : (diffByte a b).toNat = (a.toNat + 256 - b.toNat) % 256 := by
  have := b.isLt
  rw [diffByte, BitVec.toNat_sub]
  omega

theorem halfByte_toNat (a : Byte) : (halfByte a).toNat = a.toNat / 2 := by
  rw [halfByte, BitVec.toNat_ushiftRight, Nat.shiftRight_one]

theorem doubleByte_toNat (a : Byte) : (doubleByte a).toNat = 2 * a.toNat % 256 := by
  rw [doubleByte, BitVec.toNat_shiftLeft, Nat.shiftLeft_eq, Nat.mul_comm]

theorem carryFlag_eq_true (a b : Byte) : carryFlag a b = true ↔ a.toNat + b.toNat > 255 := decide_eq_true_iff

theorem greaterFlag_eq_true (a b : Byte) : greaterFlag a b = true ↔ a.toNat > b.toNat := decide_eq_true_iff

/-- A flag written to VF is the number of its bit. -/
theorem flag_toNat (flag : Bool) : (if flag then 1 else 0 : Byte).toNat = flag.toNat := by cases flag <;> rfl

theorem lowBitFlag_toNat (a : Byte) : (lowBitFlag a).toNat = a.toNat % 2 := by
  rw [lowBitFlag, BitVec.getLsbD, Nat.toNat_testBit, Nat.pow_zero, Nat.div_one]

theorem highBitFlag_toNat (a : Byte) : (highBitFlag a).toNat = a.toNat / 128 := by
  have := a.isLt
  rw [highBitFlag, BitVec.getLsbD, Nat.toNat_testBit]
  omega

/-! ## Loads, and the operations without a flag (42_load_alu.md R120 to R125, R131; 44_timer_key.md R150) -/

theorem exec_ldVxKk (x : Reg) (kk : Byte) (s : State) : exec (.ldVxKk x kk) s = .next (s.setReg x kk) := rfl

theorem exec_ldVxVy (x y : Reg) (s : State) : exec (.ldVxVy x y) s = .next (s.setReg x (s.reg y)) := rfl

theorem exec_ldVxDT (x : Reg) (s : State) : exec (.ldVxDT x) s = .next (s.setReg x s.dt) := rfl

theorem exec_addVxKk (x : Reg) (kk : Byte) (s : State) :
    exec (.addVxKk x kk) s = .next (s.setReg x (sumByte (s.reg x) kk)) := rfl

theorem exec_orVxVy (x y : Reg) (s : State) : exec (.orVxVy x y) s = .next (s.setReg x (s.reg x ||| s.reg y)) := rfl

theorem exec_andVxVy (x y : Reg) (s : State) : exec (.andVxVy x y) s = .next (s.setReg x (s.reg x &&& s.reg y)) := rfl

theorem exec_xorVxVy (x y : Reg) (s : State) : exec (.xorVxVy x y) s = .next (s.setReg x (s.reg x ^^^ s.reg y)) := rfl

theorem exec_rnd (x : Reg) (kk : Byte) (s : State) :
    exec (.rnd x kk) s = .next (s.setReg x (s.sample.rnd &&& kk)) := rfl

/-- Settles O37: each load is one write of V[x]. -/
theorem loadsWriteOnlyTheirRegister : Obligations.LoadsWriteOnlyTheirRegister := fun s x y kk =>
  ⟨⟨_, exec_ldVxKk x kk s, s.reg_setReg_same x _, s.setReg_changesOnly x _⟩,
    ⟨_, exec_ldVxVy x y s, s.reg_setReg_same x _, s.setReg_changesOnly x _⟩,
    ⟨_, exec_ldVxDT x s, s.reg_setReg_same x _, s.setReg_changesOnly x _⟩⟩

/-- Settles O38: the sum goes to V[x] by one write, which leaves VF alone. -/
theorem addImmediateWritesNoFlag : Obligations.AddImmediateWritesNoFlag := by
  intro s x kk
  refine ⟨_, exec_addVxKk x kk s, ?_, s.setReg_changesOnly x _⟩
  rw [State.reg_setReg_same, sumByte_toNat]

/-- Settles O39: one write of V[x], whose bits are the operation's. -/
theorem logicOperationsWriteNoFlag : Obligations.LogicOperationsWriteNoFlag := by
  intro s x y
  refine ⟨⟨_, exec_orVxVy x y s, fun k _ => ?_, s.setReg_changesOnly x _⟩,
    ⟨_, exec_andVxVy x y s, fun k _ => ?_, s.setReg_changesOnly x _⟩,
    ⟨_, exec_xorVxVy x y s, fun k _ => ?_, s.setReg_changesOnly x _⟩⟩
  · rw [State.reg_setReg_same, BitVec.getLsbD_or]
  · rw [State.reg_setReg_same, BitVec.getLsbD_and]
  · rw [State.reg_setReg_same, BitVec.getLsbD_xor]

/-- Settles O44: one write of the masked sample, so a bit clear in the mask is clear in V[x]. -/
theorem rndMasksTheRandomByte : Obligations.RndMasksTheRandomByte := by
  intro s x kk
  refine ⟨_, exec_rnd x kk s, s.reg_setReg_same x _, fun k _ hk => ?_, s.setReg_changesOnly x _⟩
  rw [State.reg_setReg_same, BitVec.getLsbD_and, hk, Bool.and_false]

/-! ## The operations with a flag (42_load_alu.md R126 to R130) -/

theorem exec_addVxVy (x y : Reg) (s : State) :
    exec (.addVxVy x y) s = .next (s.setRegFlag x (sumByte (s.reg x) (s.reg y)) (carryFlag (s.reg x) (s.reg y))) := rfl

theorem exec_subVxVy (x y : Reg) (s : State) : exec (.subVxVy x y) s =
    .next (s.setRegFlag x (diffByte (s.reg x) (s.reg y)) (greaterFlag (s.reg x) (s.reg y))) := rfl

theorem exec_subnVxVy (x y : Reg) (s : State) : exec (.subnVxVy x y) s =
    .next (s.setRegFlag x (diffByte (s.reg y) (s.reg x)) (greaterFlag (s.reg y) (s.reg x))) := rfl

theorem exec_shrVx (x : Reg) (s : State) :
    exec (.shrVx x) s = .next (s.setRegFlag x (halfByte (s.reg x)) (lowBitFlag (s.reg x))) := rfl

theorem exec_shlVx (x : Reg) (s : State) :
    exec (.shlVx x) s = .next (s.setRegFlag x (doubleByte (s.reg x)) (highBitFlag (s.reg x))) := rfl

/-- Settles O40: the sum to V[x], then the carry to VF. -/
theorem addSetsCarryLast : Obligations.AddSetsCarryLast := by
  intro s x y
  refine ⟨_, exec_addVxVy x y s, ?_, fun hx => ?_, s.setRegFlag_changesOnly x _ _⟩
  · simp only [State.reg_setRegFlag_vf, carryFlag_eq_true]
  · rw [State.reg_setRegFlag_dest s hx, sumByte_toNat]

/-- Settles O41: the difference to V[x], then the strict comparison to VF. -/
theorem subSetsStrictFlagLast : Obligations.SubSetsStrictFlagLast := by
  intro s x y
  refine ⟨_, exec_subVxVy x y s, ?_, fun hx => ?_, s.setRegFlag_changesOnly x _ _⟩
  · simp only [State.reg_setRegFlag_vf, greaterFlag_eq_true]
  · rw [State.reg_setRegFlag_dest s hx, diffByte_toNat]

/-- Settles O42: as for SUB, with the operands exchanged. -/
theorem subnSetsStrictFlagLast : Obligations.SubnSetsStrictFlagLast := by
  intro s x y
  refine ⟨_, exec_subnVxVy x y s, ?_, fun hx => ?_, s.setRegFlag_changesOnly x _ _⟩
  · simp only [State.reg_setRegFlag_vf, greaterFlag_eq_true]
  · rw [State.reg_setRegFlag_dest s hx, diffByte_toNat]

/-- Settles O43: the shifted byte to V[x], then the bit shifted out to VF. -/
theorem shiftsSetTheBitShiftedOutLast : Obligations.ShiftsSetTheBitShiftedOutLast := by
  intro s x
  refine ⟨⟨_, exec_shrVx x s, ?_, fun hx => ?_, s.setRegFlag_changesOnly x _ _⟩,
    ⟨_, exec_shlVx x s, ?_, fun hx => ?_, s.setRegFlag_changesOnly x _ _⟩⟩
  · rw [State.reg_setRegFlag_vf, flag_toNat, lowBitFlag_toNat]
  · rw [State.reg_setRegFlag_dest s hx, halfByte_toNat]
  · rw [State.reg_setRegFlag_vf, flag_toNat, highBitFlag_toNat]
  · rw [State.reg_setRegFlag_dest s hx, doubleByte_toNat]

end Sys2Proof.Machine

namespace Sys2Proof

/-! ## A legal configuration (00_scope.md R8) -/

theorem Config.wellFormed_iff (c : Config) :
    c.wellFormed = true ↔ c.fontBase.toNat + 80 ≤ c.progBase.toNat ∧ c.progBase.toNat < 4096 := by
  simp only [Config.wellFormed, Bool.and_eq_true, decide_eq_true_eq]

end Sys2Proof

namespace Sys2Proof.Machine

/-! ## Loads of the index register (43_index_memory.md R140, R142) -/

/-- The 8 bits of a byte fit a word. -/
@[simp] theorem zextByte_toNat (b : Byte) : (zextByte b).toNat = b.toNat :=
  BitVec.toNat_setWidth_of_le (by decide)

theorem State.setI_changesOnly (s : State) (w : Word) : ChangesOnly (· = .index) s (s.setI w) := by
  intro p hp
  cases p
  case index => exact absurd rfl hp
  case inputs => exact ⟨rfl, rfl⟩
  all_goals rfl

theorem State.glyphAddr_toNat (s : State) (x : Reg) :
    (s.glyphAddr x).toNat = (s.cfg.fontBase.toNat + 5 * (s.reg x).toNat) % 65536 := by
  rw [State.glyphAddr, BitVec.toNat_add, BitVec.toNat_mul, zextByte_toNat, Nat.add_mod_mod]
  rfl

/-- The fontset of a legal configuration lies so low that no byte's glyph address, 5 * 255 at most above its base,
leaves a word. -/
theorem State.glyphAddr_toNat_of_wellFormed {s : State} (hc : s.cfg.wellFormed = true) (x : Reg) :
    (s.glyphAddr x).toNat = s.cfg.fontBase.toNat + 5 * (s.reg x).toNat := by
  obtain ⟨hfont, hprog⟩ := (Config.wellFormed_iff s.cfg).mp hc
  have hx := (s.reg x).isLt
  rw [State.glyphAddr_toNat, Nat.mod_eq_of_lt (by omega)]

theorem exec_ldI (nnn : BitVec 12) (s : State) : exec (.ldI nnn) s = .next (s.setI (zext nnn)) := rfl

theorem exec_ldFVx (x : Reg) (s : State) : exec (.ldFVx x) s = .next (s.setI (s.glyphAddr x)) := rfl

/-- Settles O45: each load is one write of I, of the zero-extended operand or of the glyph address. -/
theorem loadsOfTheIndexRegister : Obligations.LoadsOfTheIndexRegister := fun s x nnn =>
  ⟨⟨_, exec_ldI nnn s, zext_toNat nnn, s.setI_changesOnly _⟩,
    ⟨_, exec_ldFVx x s, fun hc => State.glyphAddr_toNat_of_wellFormed hc x, s.setI_changesOnly _⟩⟩

end Sys2Proof.Machine

namespace Sys2Proof.Machine

/-! ## Setting a timer (44_timer_key.md R151, R152) -/

theorem State.setDT_changesOnly (s : State) (b : Byte) : ChangesOnly (· = .delayTimer) s (s.setDT b) := by
  intro p hp
  cases p
  case delayTimer => exact absurd rfl hp
  case inputs => exact ⟨rfl, rfl⟩
  all_goals rfl

theorem State.setST_changesOnly (s : State) (b : Byte) : ChangesOnly (· = .soundTimer) s (s.setST b) := by
  intro p hp
  cases p
  case soundTimer => exact absurd rfl hp
  case inputs => exact ⟨rfl, rfl⟩
  all_goals rfl

theorem exec_ldDTVx (x : Reg) (s : State) : exec (.ldDTVx x) s = .next (s.setDT (s.reg x)) := rfl

theorem exec_ldSTVx (x : Reg) (s : State) : exec (.ldSTVx x) s = .next (s.setST (s.reg x)) := rfl

/-- Settles O50: each load is one write of its timer. -/
theorem loadsOfTheTimers : Obligations.LoadsOfTheTimers := fun s x =>
  ⟨⟨_, exec_ldDTVx x s, exec_ldDTVx_dt (exec_ldDTVx x s), s.setDT_changesOnly _⟩,
    ⟨_, exec_ldSTVx x s, exec_ldSTVx_st (exec_ldSTVx x s), s.setST_changesOnly _⟩⟩

/-! ## The blocking key read (44_timer_key.md R155) -/

/-- A key number fits a register. -/
theorem keyByte_toNat (k : Key) : (BitVec.ofNat 8 k.val).toNat = k.val := by
  rw [BitVec.toNat_ofNat, Nat.mod_eq_of_lt (k.isLt.trans (by decide))]

@[simp] theorem State.holdIf_true (s : State) : s.holdIf true = { s with pc := s.pc - 2 } := rfl

@[simp] theorem State.holdIf_false (s : State) : s.holdIf false = s := rfl

theorem exec_ldVxK (x : Reg) (s : State) : exec (.ldVxK x) s = execLdVxK x s := rfl

theorem exec_ldVxK_of_lowestKey_some {s : State} {k : Key} (x : Reg) (hk : s.lowestKey = some k) :
    exec (.ldVxK x) s = .next (s.setReg x (BitVec.ofNat 8 k.val)) := by
  rw [exec_ldVxK, execLdVxK, hk, Option.map_some, State.setRegIf_some, Option.isNone_some, State.holdIf_false]

theorem exec_ldVxK_of_lowestKey_none {s : State} (x : Reg) (hk : s.lowestKey = none) :
    exec (.ldVxK x) s = .next { s with pc := s.pc - 2 } := by
  rw [exec_ldVxK, execLdVxK, hk, Option.map_none, State.setRegIf_none, Option.isNone_none, State.holdIf_true]

/-- Settles O51: with a lowest key down the read is one write of V[x]; with none it only takes the pre-increment
back. -/
theorem keyReadTakesTheLowestKeyOrHolds : Obligations.KeyReadTakesTheLowestKeyOrHolds := by
  intro s x
  constructor
  · intro k hdown hlow
    have hk : s.lowestKey = some k := State.lowestKey_eq_some.mpr ⟨hdown, hlow⟩
    refine ⟨_, exec_ldVxK_of_lowestKey_some x hk, ?_, s.setReg_changesOnly x _⟩
    rw [State.reg_setReg_same, keyByte_toNat]
  · intro hup
    exact exec_ldVxK_of_lowestKey_none x (State.lowestKey_eq_none.mpr hup)

end Sys2Proof.Machine

namespace Sys2Proof.Machine

/-! ## The display cleared (45_display.md R160) -/

@[simp] theorem State.pixel_setScreen (s : State) (fb : Screen) (r : Fin 32) (c : Fin 64) :
    (s.setScreen fb).pixel r c = Screen.get fb r c := rfl

theorem State.setScreen_changesOnly (s : State) (fb : Screen) :
    ChangesOnly (fun p => ∃ R C, p = .pixel R C) s (s.setScreen fb) := by
  intro p hp
  cases p
  case pixel r c => exact absurd ⟨r, c, rfl⟩ hp
  case inputs => exact ⟨rfl, rfl⟩
  all_goals rfl

theorem exec_cls (s : State) : exec .cls s = .next (s.setScreen Screen.dark) := rfl

/-- Settles O54: the meaning is one write of the screen, and every pixel of the dark screen is off. -/
theorem clsTurnsEveryPixelOff : Obligations.ClsTurnsEveryPixelOff := fun s =>
  ⟨_, exec_cls s, fun R C => (s.pixel_setScreen _ R C).trans (Screen.get_dark R C), s.setScreen_changesOnly _⟩

end Sys2Proof.Machine

namespace Sys2Proof.Machine

/-! ## Reset (70_reset_and_hazards.md R190) -/

/-- Byte k of the glyph of digit d, in the fontset's place. -/
theorem resetByte_glyph (c : Config) (d : Fin 16) (k : Fin 5) :
    resetByte c (c.fontBase.toNat + 5 * d.val + k.val) = c.fontset[d][k] := by
  have hoff : c.fontBase.toNat + 5 * d.val + k.val - c.fontBase.toNat = 5 * d.val + k.val := by omega
  have hin : c.fontBase.toNat ≤ c.fontBase.toNat + 5 * d.val + k.val ∧ 5 * d.val + k.val < 80 := by omega
  have hd : Fin.ofNat 16 ((5 * d.val + k.val) / 5) = d := Fin.ext (by rw [Fin.val_ofNat]; omega)
  have hk : Fin.ofNat 5 ((5 * d.val + k.val) % 5) = k := Fin.ext (by rw [Fin.val_ofNat]; omega)
  simp only [resetByte, hoff, if_pos hin, hd, hk]

/-- Outside the fontset's 80 bytes memory starts at 0. -/
theorem resetByte_outside_font {c : Config} {a : Nat} (h : a < c.fontBase.toNat ∨ c.fontBase.toNat + 80 ≤ a) :
    resetByte c a = 0 :=
  if_neg (by omega)

/-- Reset lists no cell, so every address below 4096 reads as its reset contents. -/
theorem State.readByte_resetWith (c : Config) {a : Nat} (h : a < 4096) :
    (State.resetWith c).readByte a = resetByte c a :=
  congrArg (resetByte c) (Nat.mod_eq_of_lt h)

theorem State.reg_resetWith (c : Config) (r : Reg) : (State.resetWith c).reg r = 0 :=
  Vector.getElem_replicate r.isLt

theorem State.stack_resetWith (c : Config) (k : Fin 16) : (State.resetWith c).stack[k] = 0 :=
  Vector.getElem_replicate k.isLt

theorem State.pixel_resetWith (c : Config) (R : Fin 32) (C : Fin 64) : (State.resetWith c).pixel R C = false :=
  Screen.get_dark R C

/-- The last glyph of a legal configuration ends below 4096. -/
theorem Config.glyphByte_lt_of_wellFormed {c : Config} (hc : c.wellFormed = true) (d : Fin 16) (k : Fin 5) :
    c.fontBase.toNat + 5 * d.val + k.val < 4096 := by
  obtain ⟨hfont, hprog⟩ := (Config.wellFormed_iff c).mp hc
  omega

/-- Settles O1: the fields hold their values as reset writes them, and memory, of which reset lists no cell, reads as the
reset contents: the glyphs in the fontset's place and 0 around it. -/
theorem resetLeavesTheSpecValues : Obligations.ResetLeavesTheSpecValues := by
  intro c hc
  refine ⟨State.reg_resetWith c, rfl, rfl, State.stack_resetWith c, rfl, rfl, rfl, rfl, State.pixel_resetWith c, ?_, ?_⟩
  · intro d k
    rw [State.readByte_resetWith c (Config.glyphByte_lt_of_wellFormed hc d k), resetByte_glyph]
  · intro a ha hout
    rw [State.readByte_resetWith c ha, resetByte_outside_font hout]

end Sys2Proof.Machine

namespace Sys2Proof

/-! ## The fields of a word in each format (30_encoding.md R71, R72) -/

section Fields

variable {op : Nat} (hop : op < 16) (x y : Reg)

theorem opField_of_toNat {w : Word} (h : (opField w).toNat = op) : opField w = BitVec.ofNat 4 op := by
  rw [← h, BitVec.ofNat_toNat, BitVec.setWidth_eq]

include hop

@[simp] theorem opField_formatA_eq (nnn : BitVec 12) : opField (formatA op nnn) = BitVec.ofNat 4 op :=
  opField_of_toNat (opField_formatA hop nnn)

@[simp] theorem opField_formatXK_eq (kk : Byte) : opField (formatXK op x kk) = BitVec.ofNat 4 op :=
  opField_of_toNat (opField_formatXK hop x kk)

@[simp] theorem opField_formatXYN_eq {n : Nat} (hn : n < 16) : opField (formatXYN op x y n) = BitVec.ofNat 4 op :=
  opField_of_toNat (opField_formatXYN hop hn x y)

@[simp] theorem opField_formatX_eq {key : Nat} (hk : key < 256) : opField (formatX op x key) = BitVec.ofNat 4 op :=
  opField_of_toNat (opField_formatX hop hk x)

@[simp] theorem nnnField_formatA (nnn : BitVec 12) : nnnField (formatA op nnn) = nnn := by
  apply BitVec.eq_of_toNat_eq
  rw [nnnField_toNat, formatA_toNat hop]
  omega

@[simp] theorem xField_formatXK (kk : Byte) : xField (formatXK op x kk) = x := by
  apply Fin.ext
  rw [xField_val, formatXK_toNat hop]
  omega

@[simp] theorem kkField_formatXK (kk : Byte) : kkField (formatXK op x kk) = kk := by
  apply BitVec.eq_of_toNat_eq
  rw [kkField_toNat, formatXK_toNat hop]
  omega

@[simp] theorem xField_formatXYN {n : Nat} (hn : n < 16) : xField (formatXYN op x y n) = x := by
  apply Fin.ext
  rw [xField_val, formatXYN_toNat hop hn]
  omega

@[simp] theorem yField_formatXYN {n : Nat} (hn : n < 16) : yField (formatXYN op x y n) = y := by
  apply Fin.ext
  rw [yField_val, formatXYN_toNat hop hn]
  omega

@[simp] theorem nField_formatXYN {n : Nat} (hn : n < 16) : nField (formatXYN op x y n) = BitVec.ofNat 4 n := by
  apply BitVec.eq_of_toNat_eq
  rw [nField_toNat, formatXYN_toNat hop hn, BitVec.toNat_ofNat]
  omega

@[simp] theorem rowsField_formatXYN (n : Fin 16) : rowsField (formatXYN op x y n.val) = n := by
  apply Fin.ext
  rw [rowsField_val, formatXYN_toNat hop n.isLt]
  omega

@[simp] theorem xField_formatX {key : Nat} (hk : key < 256) : xField (formatX op x key) = x := by
  apply Fin.ext
  rw [xField_val, formatX_toNat hop hk]
  omega

@[simp] theorem nField_formatX {key : Nat} (hk : key < 256) : nField (formatX op x key) = BitVec.ofNat 4 key := by
  apply BitVec.eq_of_toNat_eq
  rw [nField_toNat, formatX_toNat hop hk, BitVec.toNat_ofNat]
  omega

@[simp] theorem kkField_formatX {key : Nat} (hk : key < 256) : kkField (formatX op x key) = BitVec.ofNat 8 key := by
  apply BitVec.eq_of_toNat_eq
  rw [kkField_toNat, formatX_toNat hop hk, BitVec.toNat_ofNat]
  omega

end Fields

/-! ## Decoding an encoded instruction (30_encoding.md R82) -/

/-- The family digit of the canonical word picks the arm, its key the instruction, and the fields are the operands. -/
theorem decodeWord_encode (i : Instr) : decodeWord (encode i) = i := by
  cases i
  case cls | ret | nop => decide
  case jp | call | ldI | jpV0 => simp [encode, decodeWord]
  case seVxKk | sneVxKk | ldVxKk | addVxKk | rnd => simp [encode, decodeWord]
  case seVxVy | sneVxVy | drw => simp [encode, decodeWord]
  case skp | sknp => simp [encode, decodeWord, decodeFamilyE]
  case ldVxDT | ldVxK | ldDTVx | ldSTVx | addIVx | ldFVx | ldBVx | ldMemVx | ldVxMem =>
    simp [encode, decodeWord, decodeFamilyF]
  all_goals simp [encode, decodeWord, decodeFamily8]

/-- Settles O6: the two bytes of a word make it again, and the word decodes to its instruction. -/
theorem decodeOfEncodeIsIdentity : Obligations.DecodeOfEncodeIsIdentity := by
  intro i _
  refine ⟨decodeWord_encode i, fun rest => ?_⟩
  rw [encodeBytes, List.cons_append, List.cons_append, List.nil_append, decode_two, wordOfBytes_highByte_lowByte,
    decodeWord_encode]

/-! ## The patterns with their ignored bits (30_encoding.md R80, R82) -/

/-- A word that is the canonical one of an instruction, whatever the sum that gives it. -/
theorem decodeWord_of_encode_eq {i : Instr} {w : Word} (h : encode i = w) : decodeWord w = i := by
  rw [← h, decodeWord_encode]

/-- The patterns with ignored bits, the digit `g` standing for them; CLS and RET ignore `x` too. -/
theorem decodeWord_formatXYN_ignored (x y g : Reg) :
    decodeWord (formatXYN 0x0 x g 0x0) = .cls ∧ decodeWord (formatXYN 0x0 x g 0xE) = .ret ∧
    decodeWord (formatXYN 0x5 x y g.val) = .seVxVy x y ∧ decodeWord (formatXYN 0x8 x g 0x6) = .shrVx x ∧
    decodeWord (formatXYN 0x8 x g 0xE) = .shlVx x ∧ decodeWord (formatXYN 0x9 x y g.val) = .sneVxVy x y ∧
    decodeWord (formatXYN 0xE x g 0xE) = .skp x ∧ decodeWord (formatXYN 0xE x g 0x1) = .sknp x := by
  simp [decodeWord, decodeFamily0, decodeFamily8, decodeFamilyE]

theorem decodeWord_ofNat_of_formatXYN {m op n : Nat} {x y : Reg} {i : Instr} (hi : decodeWord (formatXYN op x y n) = i)
    (h : op * 0x1000 + x.val * 0x100 + y.val * 0x10 + n = m) : decodeWord (BitVec.ofNat 16 m) = i := by
  rw [← h]
  exact hi

/-- Settles O8: a pattern with ignored bits is a word of format XYN with any digits there; every other pattern is the
canonical word of its instruction. -/
theorem patternsDecodeWithTheirOperands : Obligations.PatternsDecodeWithTheirOperands := by
  intro x y n g gg kk nnn
  obtain ⟨hcls, hret, -⟩ := decodeWord_formatXYN_ignored (Fin.ofNat 16 (gg.val / 16)) y (Fin.ofNat 16 gg.val)
  obtain ⟨-, -, hse, hshr, hshl, hsne, hskp, hsknp⟩ := decodeWord_formatXYN_ignored x y g
  refine ⟨decodeWord_ofNat_of_formatXYN hcls ?cls, decodeWord_ofNat_of_formatXYN hret ?ret, ?_, ?_, ?_, ?_,
    decodeWord_ofNat_of_formatXYN hse ?se, ?_, ?_, ?_, ?_, ?_, ?_, ?_, ?_, decodeWord_ofNat_of_formatXYN hshr ?shr, ?_,
    decodeWord_ofNat_of_formatXYN hshl ?shl, decodeWord_ofNat_of_formatXYN hsne ?sne, ?_, ?_, ?_, ?_,
    decodeWord_ofNat_of_formatXYN hskp ?skp, decodeWord_ofNat_of_formatXYN hsknp ?sknp, ?_, ?_, ?_, ?_, ?_, ?_, ?_, ?_,
    ?_⟩
  case cls | ret => simp only [Fin.val_ofNat]; omega
  case se | shr | shl | sne | skp | sknp => omega
  all_goals
    refine decodeWord_of_encode_eq (congrArg (BitVec.ofNat 16) ?_)
    omega

/-! ## The opcode table (30_encoding.md R78, R82) -/

theorem toNat_append_eq_mul_add {m n : Nat} (a : BitVec m) (b : BitVec n) :
    (a ++ b).toNat = a.toNat * 2 ^ n + b.toNat := by
  rw [BitVec.toNat_append, Nat.shiftLeft_eq, Nat.mul_comm, Nat.two_pow_add_eq_or_of_lt b.isLt]

theorem and_F000 (w : Word) : w &&& 0xF000#16 = opField w ++ 0#12 := by
  apply BitVec.eq_of_getLsbD_eq
  intro k hk
  rw [BitVec.getLsbD_and, BitVec.getLsbD_append, opField, BitVec.getLsbD_extractLsb']
  interval_cases k <;> simp

theorem and_F00F (w : Word) : w &&& 0xF00F#16 = opField w ++ (0#8 ++ nField w) := by
  apply BitVec.eq_of_getLsbD_eq
  intro k hk
  rw [BitVec.getLsbD_and, BitVec.getLsbD_append, BitVec.getLsbD_append, opField, nField, BitVec.getLsbD_extractLsb',
    BitVec.getLsbD_extractLsb']
  interval_cases k <;> simp

theorem and_F0FF (w : Word) : w &&& 0xF0FF#16 = opField w ++ (0#4 ++ kkField w) := by
  apply BitVec.eq_of_getLsbD_eq
  intro k hk
  rw [BitVec.getLsbD_and, BitVec.getLsbD_append, BitVec.getLsbD_append, opField, kkField, BitVec.getLsbD_extractLsb',
    BitVec.getLsbD_extractLsb']
  interval_cases k <;> simp

/-- A row with the mask 0xF000 asks for its family digit. -/
theorem and_F000_eq_ofNat (w : Word) (p : Nat) : w &&& 0xF000#16 = BitVec.ofNat 16 p ↔
    p % 0x1000 = 0 ∧ opField w = BitVec.ofNat 4 (p / 0x1000) := by
  simp only [and_F000, ← BitVec.toNat_inj, toNat_append_eq_mul_add, BitVec.toNat_ofNat]
  omega

/-- A row with the mask 0xF00F asks for its lowest digit too. -/
theorem and_F00F_eq_ofNat (w : Word) (p : Nat) : w &&& 0xF00F#16 = BitVec.ofNat 16 p ↔
    p / 0x10 % 0x100 = 0 ∧ opField w = BitVec.ofNat 4 (p / 0x1000) ∧ nField w = BitVec.ofNat 4 p := by
  simp only [and_F00F, ← BitVec.toNat_inj, toNat_append_eq_mul_add, BitVec.toNat_ofNat]
  omega

/-- A row with the mask 0xF0FF asks for its low byte too. -/
theorem and_F0FF_eq_ofNat (w : Word) (p : Nat) : w &&& 0xF0FF#16 = BitVec.ofNat 16 p ↔
    p / 0x100 % 0x10 = 0 ∧ opField w = BitVec.ofNat 4 (p / 0x1000) ∧ kkField w = BitVec.ofNat 8 p := by
  simp only [and_F0FF, ← BitVec.toNat_inj, toNat_append_eq_mul_add, BitVec.toNat_ofNat]
  omega

/-- The sixteen values of a digit. -/
theorem digit_cases (d : BitVec 4) : d = 0x0#4 ∨ d = 0x1#4 ∨ d = 0x2#4 ∨ d = 0x3#4 ∨ d = 0x4#4 ∨ d = 0x5#4 ∨ d = 0x6#4 ∨
    d = 0x7#4 ∨ d = 0x8#4 ∨ d = 0x9#4 ∨ d = 0xA#4 ∨ d = 0xB#4 ∨ d = 0xC#4 ∨ d = 0xD#4 ∨ d = 0xE#4 ∨ d = 0xF#4 := by
  revert d
  decide

/-- Settles O7: in each arm of the decoder the word's digits are known, and each row asks for such digits. -/
theorem decodeFollowsTheOpcodeTable : Obligations.DecodeFollowsTheOpcodeTable := by
  intro w
  simp only [opcodeTable, List.cons_append, List.nil_append, List.forall_mem_cons, BitVec.ofNat_eq_ofNat, ne_eq,
    and_F000_eq_ofNat, and_F00F_eq_ofNat, and_F0FF_eq_ofNat]
  have hop := digit_cases (opField w)
  unfold decodeWord
  split
  case h_1 =>
    unfold decodeFamily0
    split <;> simp_all [Instr.mnemonic]
  case h_9 =>
    unfold decodeFamily8
    split <;> simp_all [Instr.mnemonic]
  case h_15 =>
    unfold decodeFamilyE
    split <;> simp_all [Instr.mnemonic]
  case h_16 =>
    unfold decodeFamilyF
    split <;> simp_all [Instr.mnemonic]
  all_goals simp [Instr.mnemonic, *]

/-! ### The words that are no instruction -/

theorem decodeFamily0_eq_nop (w : Word) : decodeFamily0 w = .nop ↔ w.toNat % 0x10 ∉ [0x0, 0xE] := by
  rw [← nField_toNat]
  unfold decodeFamily0
  split <;> simp_all [BitVec.toNat_eq]

theorem decodeFamily8_eq_nop (w : Word) :
    decodeFamily8 w = .nop ↔ w.toNat % 0x10 ∈ [0x8, 0x9, 0xA, 0xB, 0xC, 0xD, 0xF] := by
  have hn := digit_cases (nField w)
  rw [← nField_toNat]
  unfold decodeFamily8
  split <;> simp_all [BitVec.toNat_eq]

theorem decodeFamilyE_eq_nop (w : Word) : decodeFamilyE w = .nop ↔ w.toNat % 0x10 ∉ [0x1, 0xE] := by
  rw [← nField_toNat]
  unfold decodeFamilyE
  split <;> simp_all [BitVec.toNat_eq]

theorem decodeFamilyF_eq_nop (w : Word) :
    decodeFamilyF w = .nop ↔ w.toNat % 0x100 ∉ [0x07, 0x0A, 0x15, 0x18, 0x1E, 0x29, 0x33, 0x55, 0x65] := by
  rw [← kkField_toNat]
  unfold decodeFamilyF
  split <;> simp_all [BitVec.toNat_eq]

/-- Only the four families with a second dispatcher have no-ops. -/
theorem decodeWord_eq_nop (w : Word) : decodeWord w = .nop ↔
    (opField w = 0x0#4 ∧ decodeFamily0 w = .nop) ∨ (opField w = 0x8#4 ∧ decodeFamily8 w = .nop) ∨
    (opField w = 0xE#4 ∧ decodeFamilyE w = .nop) ∨ (opField w = 0xF#4 ∧ decodeFamilyF w = .nop) := by
  have hop := digit_cases (opField w)
  unfold decodeWord
  split
  case h_16 => simp_all
  all_goals simp [*]

theorem opField_eq_ofNat_iff (w : Word) {op : Nat} (h : op < 16) :
    opField w = BitVec.ofNat 4 op ↔ w.toNat / 0x1000 = op := by
  rw [← BitVec.toNat_inj, opField_toNat, BitVec.toNat_ofNat]
  omega

/-- Settles O9: the no-ops of each family, read off its dispatcher. -/
theorem nopWordsAreExactlyTheUnassigned : Obligations.NopWordsAreExactlyTheUnassigned := by
  intro w
  simp only [decodeWord_eq_nop, decodeFamily0_eq_nop, decodeFamily8_eq_nop, decodeFamilyE_eq_nop, decodeFamilyF_eq_nop,
    opField_eq_ofNat_iff, Nat.reduceLT]

/-- Settles O10: the decoder run on nine closed words. -/
theorem writtenOutWordsDecode : Obligations.WrittenOutWordsDecode := by
  unfold Obligations.WrittenOutWordsDecode
  decide

end Sys2Proof

namespace Sys2Proof.Machine

/-! ## What the execute phase can answer (40_step_cycle.md R92) -/

theorem exec_ldBVx (x : Reg) (s : State) :
    exec (.ldBVx x) s = .next (s.writeBytes s.dataBase (digits (s.reg x))) := rfl

theorem exec_ldMemVx (x : Reg) (s : State) :
    exec (.ldMemVx x) s = .next (s.writeBytes s.dataBase (s.regsUpTo x)) := rfl

theorem exec_ldVxMem (x : Reg) (s : State) : exec (.ldVxMem x) s = .next (s.loadRegs x s.dataBase) := rfl

/-- The inversion of LD Vx,[I], stated because `cases` would compare the sixteen loads entry by entry. -/
theorem eq_loadRegs_of_exec {x : Reg} {s u : State} (h : exec (.ldVxMem x) s = .next u) :
    u = s.loadRegs x s.dataBase :=
  Host.Outcome.next.inj (h.symm.trans (exec_ldVxMem x s))

theorem exec_ret_of_pos {s : State} (hs : 0 < s.sp.val) :
    exec .ret s = .next { s with pc := s.stack[s.sp.val - 1], sp := ⟨s.sp.val - 1, by omega⟩ } := by
  show execRet s = _
  rw [execRet, State.pop, dif_pos hs]
  rfl

theorem exec_ret_of_zero {s : State} (hs : s.sp.val = 0) : exec .ret s = .next (s.raise .stackUnderflow) := by
  show execRet s = _
  rw [execRet, State.pop, dif_neg (by omega)]

theorem exec_call_of_lt {s : State} (nnn : BitVec 12) (hs : s.sp.val < 16) : exec (.call nnn) s =
    .next { s with pc := zext nnn, stack := s.stack.set s.sp.val s.pc hs, sp := ⟨s.sp.val + 1, by omega⟩ } := by
  show execCall nnn s = _
  rw [execCall, State.push, dif_pos hs]
  rfl

theorem exec_call_of_full {s : State} (nnn : BitVec 12) (hs : s.sp.val = 16) :
    exec (.call nnn) s = .next (s.raise .stackOverflow) := by
  show execCall nnn s = _
  rw [execCall, State.push, dif_neg (by omega)]

theorem State.sp_full_or_lt (s : State) : s.sp.val = 16 ∨ s.sp.val < 16 := by omega

/-- RET's two outcomes. -/
theorem exec_ret_inv {s u : State} (h : exec .ret s = .next u) : (s.sp.val = 0 ∧ u = s.raise .stackUnderflow) ∨
    ∃ _ : 0 < s.sp.val, u = { s with pc := s.stack[s.sp.val - 1], sp := ⟨s.sp.val - 1, by omega⟩ } := by
  obtain h0 | hpos := Nat.eq_zero_or_pos s.sp.val
  · cases (exec_ret_of_zero h0).symm.trans h
    exact .inl ⟨h0, rfl⟩
  · cases (exec_ret_of_pos hpos).symm.trans h
    exact .inr ⟨hpos, rfl⟩

/-- CALL's two outcomes. -/
theorem exec_call_inv {s u : State} {nnn : BitVec 12} (h : exec (.call nnn) s = .next u) :
    (s.sp.val = 16 ∧ u = s.raise .stackOverflow) ∨ ∃ hs : s.sp.val < 16,
      u = { s with pc := zext nnn, stack := s.stack.set s.sp.val s.pc hs, sp := ⟨s.sp.val + 1, by omega⟩ } := by
  obtain hfull | hlt := s.sp_full_or_lt
  · cases (exec_call_of_full nnn hfull).symm.trans h
    exact .inl ⟨hfull, rfl⟩
  · cases (exec_call_of_lt nnn hlt).symm.trans h
    exact .inr ⟨hlt, rfl⟩

/-- Every meaning answers a next state. -/
theorem exec_total (i : Instr) (s : State) : ∃ u, exec i s = .next u := by
  by_cases hr : i = .ret
  · subst hr
    obtain h0 | hpos := Nat.eq_zero_or_pos s.sp.val
    · exact ⟨_, exec_ret_of_zero h0⟩
    · exact ⟨_, exec_ret_of_pos hpos⟩
  by_cases hc : ∃ nnn, i = .call nnn
  · obtain ⟨nnn, rfl⟩ := hc
    obtain hfull | hlt := s.sp_full_or_lt
    · exact ⟨_, exec_call_of_full nnn hfull⟩
    · exact ⟨_, exec_call_of_lt nnn hlt⟩
  obtain ⟨u, hu, -⟩ := exec_sameControl i s hr (fun nnn e => hc ⟨nnn, e⟩)
  exact ⟨u, hu⟩

/-- The inversion of the execute phase in the parts that control transfer alone can touch. -/
theorem exec_cases {i : Instr} {s u : State} (h : exec i s = .next u) :
    (i ≠ .ret ∧ (∀ nnn, i ≠ .call nnn) ∧ SameControl s u) ∨
    (i = .ret ∧ s.sp.val = 0 ∧ u = s.raise .stackUnderflow) ∨
    (i = .ret ∧ 0 < s.sp.val ∧ ∃ w k, u = { s with pc := w, sp := k }) ∨
    ((∃ nnn, i = .call nnn) ∧ s.sp.val = 16 ∧ u = s.raise .stackOverflow) ∨
    ((∃ nnn, i = .call nnn) ∧ s.sp.val < 16 ∧ ∃ w m k, u = { s with pc := w, stack := m, sp := k }) := by
  by_cases hr : i = .ret
  · subst hr
    obtain ⟨h0, rfl⟩ | ⟨hpos, rfl⟩ := exec_ret_inv h
    · exact .inr (.inl ⟨rfl, h0, rfl⟩)
    · exact .inr (.inr (.inl ⟨rfl, hpos, _, _, rfl⟩))
  by_cases hc : ∃ nnn, i = .call nnn
  · obtain ⟨nnn, rfl⟩ := hc
    obtain ⟨hfull, rfl⟩ | ⟨hlt, rfl⟩ := exec_call_inv h
    · exact .inr (.inr (.inr (.inl ⟨⟨nnn, rfl⟩, hfull, rfl⟩)))
    · exact .inr (.inr (.inr (.inr ⟨⟨nnn, rfl⟩, hlt, _, _, _, rfl⟩)))
  obtain ⟨v, hv, hsame⟩ := exec_sameControl i s hr fun nnn e => hc ⟨nnn, e⟩
  cases hv.symm.trans h
  exact .inl ⟨hr, fun nnn e => hc ⟨nnn, e⟩, hsame⟩

/-- No meaning touches the configuration or the inputs. -/
theorem exec_keeps_environment {i : Instr} {s u : State} (h : exec i s = .next u) :
    u.cfg = s.cfg ∧ u.inputs = s.inputs ∧ u.drawn = s.drawn := by
  obtain ⟨-, -, -, -, -, henv⟩ | ⟨-, -, rfl⟩ | ⟨-, -, w, k, rfl⟩ | ⟨-, -, rfl⟩ | ⟨-, -, w, m, k, rfl⟩ := exec_cases h
  · exact henv
  all_goals exact ⟨rfl, rfl, rfl⟩

theorem exec_keeps_stack {i : Instr} {s u : State} (h : exec i s = .next u) (hc : ∀ nnn, i ≠ .call nnn) :
    u.stack = s.stack := by
  obtain ⟨-, -, -, -, hstack, -⟩ | ⟨-, -, rfl⟩ | ⟨-, -, w, k, rfl⟩ | ⟨⟨nnn, e⟩, -⟩ | ⟨⟨nnn, e⟩, -⟩ := exec_cases h
  · exact hstack
  · rfl
  · rfl
  · exact absurd e (hc nnn)
  · exact absurd e (hc nnn)

theorem exec_keeps_sp {i : Instr} {s u : State} (h : exec i s = .next u) (hc : ∀ nnn, i ≠ .call nnn) (hr : i ≠ .ret) :
    u.sp = s.sp := by
  obtain ⟨-, -, -, hsp, -⟩ | ⟨e, -⟩ | ⟨e, -⟩ | ⟨⟨nnn, e⟩, -⟩ | ⟨⟨nnn, e⟩, -⟩ := exec_cases h
  · exact hsp
  · exact absurd e hr
  · exact absurd e hr
  · exact absurd e (hc nnn)
  · exact absurd e (hc nnn)

/-- A running machine's execute phase raises a fault exactly for CALL with a full stack and RET with an empty one. -/
theorem exec_fault_cases {i : Instr} {s u : State} (h : exec i s = .next u) (hs : s.fault = none) :
    (u.fault = none ∧ ¬ ((∃ nnn, i = .call nnn) ∧ s.sp.val = 16) ∧ ¬ (i = .ret ∧ s.sp.val = 0)) ∨
    (u.fault = some .stackOverflow ∧ (∃ nnn, i = .call nnn) ∧ s.sp.val = 16) ∨
    (u.fault = some .stackUnderflow ∧ i = .ret ∧ s.sp.val = 0) := by
  obtain ⟨hr, hc, hf, -⟩ | ⟨hr, h0, rfl⟩ | ⟨hr, hpos, w, k, rfl⟩ | ⟨hc, hfull, rfl⟩ | ⟨hc, hlt, w, m, k, rfl⟩ :=
    exec_cases h
  · exact .inl ⟨hf.trans hs, fun ⟨⟨nnn, e⟩, _⟩ => hc nnn e, fun ⟨e, _⟩ => hr e⟩
  · exact .inr (.inr ⟨rfl, hr, h0⟩)
  · refine .inl ⟨hs, ?_, fun ⟨_, h0⟩ => by omega⟩
    rintro ⟨⟨nnn, e⟩, -⟩
    cases hr.symm.trans e
  · exact .inr (.inl ⟨rfl, hc, hfull⟩)
  · obtain ⟨nnn, rfl⟩ := hc
    exact .inl ⟨hs, fun ⟨_, hfull⟩ => by omega, fun ⟨e, _⟩ => by cases e⟩

/-- Which meanings can reach memory, the screen and I (10_state.md R25, R33; 20_memory.md R52). -/
theorem exec_keeps_data {i : Instr} {s u : State} (h : exec i s = .next u) :
    ((∀ x, i ≠ .ldBVx x) → (∀ x, i ≠ .ldMemVx x) → u.mem = s.mem) ∧
    (i ≠ .cls → (∀ x y n, i ≠ .drw x y n) → u.fb = s.fb) ∧
    ((∀ nnn, i ≠ .ldI nnn) → (∀ x, i ≠ .addIVx x) → (∀ x, i ≠ .ldFVx x) → u.i = s.i) := by
  cases i
  case ret =>
    obtain ⟨-, rfl⟩ | ⟨-, rfl⟩ := exec_ret_inv h <;> simp
  case call nnn =>
    obtain ⟨-, rfl⟩ | ⟨-, rfl⟩ := exec_call_inv h <;> simp
  case ldBVx x | ldMemVx x =>
    cases h
    rw [State.writeBytes_eq]
    simp
  case ldVxMem x =>
    rw [eq_loadRegs_of_exec h]
    simp
  all_goals
    cases h
    simp

theorem exec_keeps_mem {i : Instr} {s u : State} (h : exec i s = .next u) (hB : ∀ x, i ≠ .ldBVx x)
    (hM : ∀ x, i ≠ .ldMemVx x) : u.mem = s.mem := by
  obtain ⟨hmem, -, -⟩ := exec_keeps_data h
  exact hmem hB hM

theorem exec_keeps_fb {i : Instr} {s u : State} (h : exec i s = .next u) (hcls : i ≠ .cls)
    (hdrw : ∀ x y n, i ≠ .drw x y n) : u.fb = s.fb := by
  obtain ⟨-, hfb, -⟩ := exec_keeps_data h
  exact hfb hcls hdrw

theorem exec_keeps_i {i : Instr} {s u : State} (h : exec i s = .next u) (hld : ∀ nnn, i ≠ .ldI nnn)
    (hadd : ∀ x, i ≠ .addIVx x) (hfont : ∀ x, i ≠ .ldFVx x) : u.i = s.i := by
  obtain ⟨-, -, hi⟩ := exec_keeps_data h
  exact hi hld hadd hfont

/-! ## The registers (10_state.md R22, R40) -/

@[simp] theorem State.reg_jump (s : State) (w : Word) (r : Reg) : (s.jump w).reg r = s.reg r := rfl

@[simp] theorem State.reg_skipIf (s : State) (taken : Bool) (r : Reg) : (s.skipIf taken).reg r = s.reg r := rfl

@[simp] theorem State.reg_setI (s : State) (w : Word) (r : Reg) : (s.setI w).reg r = s.reg r := rfl

@[simp] theorem State.reg_setDT (s : State) (b : Byte) (r : Reg) : (s.setDT b).reg r = s.reg r := rfl

@[simp] theorem State.reg_setST (s : State) (b : Byte) (r : Reg) : (s.setST b).reg r = s.reg r := rfl

@[simp] theorem State.reg_setScreen (s : State) (fb : Screen) (r : Reg) : (s.setScreen fb).reg r = s.reg r := rfl

@[simp] theorem State.reg_raise (s : State) (f : Fault) (r : Reg) : (s.raise f).reg r = s.reg r := rfl

/-- A register the instruction names neither as its destination nor as its flag stays. -/
theorem exec_keeps_reg {i : Instr} {s u : State} (h : exec i s = .next u) {r : Reg} (hd : hasDest i r = false)
    (hf : writesFlag i = true → r ≠ vf) : u.reg r = s.reg r := by
  cases i
  case ret =>
    obtain ⟨-, rfl⟩ | ⟨-, rfl⟩ := exec_ret_inv h <;> rfl
  case call nnn =>
    obtain ⟨-, rfl⟩ | ⟨-, rfl⟩ := exec_call_inv h <;> rfl
  case ldBVx x | ldMemVx x =>
    cases h
    rw [State.writeBytes_eq]
    rfl
  case ldVxMem x =>
    rw [eq_loadRegs_of_exec h]
    simp_all [hasDest]
  case ldVxK x =>
    have hr : r ≠ x := by simpa [hasDest] using hd
    cases hk : s.lowestKey with
    | none => cases (exec_ldVxK_of_lowestKey_none x hk).symm.trans h; rfl
    | some k => cases (exec_ldVxK_of_lowestKey_some x hk).symm.trans h; simp [hr]
  all_goals
    cases h
    simp_all [hasDest, writesFlag]

/-- The six flag writers leave 0 or 1 in VF. -/
theorem exec_flag {i : Instr} {s u : State} (h : exec i s = .next u) (hf : writesFlag i = true) :
    u.reg vf = 0 ∨ u.reg vf = 1 := by
  suffices ∃ flag : Bool, u.reg vf = if flag then 1 else 0 by
    obtain ⟨flag, hflag⟩ := this
    cases flag <;> simp [hflag]
  cases i
  case drw x y n =>
    cases h
    exact ⟨_, State.reg_setReg_same _ vf _⟩
  case addVxVy | subVxVy | shrVx | subnVxVy | shlVx =>
    cases h
    exact ⟨_, State.reg_setRegFlag_vf _ _ _ _⟩
  all_goals cases hf

end Sys2Proof.Machine

namespace Sys2Proof.Machine

/-! ## What every step keeps (40_step_cycle.md R90, R95) -/

theorem step_of_fault {s : State} (hs : s.fault ≠ none) : step s = .next s := by
  obtain ⟨f, hf⟩ := Option.ne_none_iff_exists'.mp hs
  rw [step_eq, hf]

/-- The step a faulting execute phase gives. -/
theorem step_of_exec_fault {s u : State} {f : Fault} (hs : s.fault = none)
    (h : exec s.nextInstr s.preIncrement = .next u) (hu : u.fault = some f) : step s = .next (s.raise f) := by
  have he : exec (decodeWord s.fetchWord) s.preIncrement = .next u := h
  simp only [step_eq, hs, he, State.settle_of_some hu]

theorem step_total (s : State) : ∃ t, step s = .next t := by
  by_cases hs : s.fault = none
  · obtain ⟨u, hu⟩ := exec_total s.nextInstr s.preIncrement
    cases hf : u.fault with
    | none => exact ⟨_, step_of_exec hs hu hf⟩
    | some f => exact ⟨_, step_of_exec_fault hs hu hf⟩
  · exact ⟨s, step_of_fault hs⟩

/-- A part of the state that the phases around the instruction leave alone, and the instruction too, a step leaves
alone. -/
theorem step_keeps {α : Type} (part : State → α) {s t : State} (h : step s = .next t)
    (hexec : ∀ u, exec s.nextInstr s.preIncrement = .next u → part u = part s.preIncrement)
    (hpre : ∀ s, part s.preIncrement = part s := by intros; rfl)
    (hraise : ∀ s f, part (s.raise f) = part s := by intros; rfl)
    (hend : ∀ u, part u.tick.nextSample = part u := by intros; rfl) : part t = part s := by
  obtain ⟨-, rfl⟩ | ⟨-, u, hu, ⟨-, rfl⟩ | ⟨f, -, rfl⟩⟩ := step_cases h
  · rfl
  · rw [hend, hexec u hu, hpre]
  · exact hraise s f

theorem step_keeps_cfg {s t : State} (h : step s = .next t) : t.cfg = s.cfg :=
  step_keeps State.cfg h fun _ hu => by
    obtain ⟨hcfg, -⟩ := exec_keeps_environment hu
    exact hcfg

/-- Settles O12: every meaning answers a next state, and a faulted machine runs none. -/
theorem stepIsTotalAndStopsOnFault : Obligations.StepIsTotalAndStopsOnFault := fun s =>
  ⟨step_total s, step_of_fault⟩

/-- Settles O17: of the phases of a step only the instruction can touch STACK and SP. -/
theorem onlyCallAndRetTouchTheStack : Obligations.OnlyCallAndRetTouchTheStack := fun _ _ h hc =>
  ⟨step_keeps State.stack h fun _ hu => exec_keeps_stack hu hc,
    fun hr => step_keeps State.sp h fun _ hu => exec_keeps_sp hu hc hr⟩

/-- Settles O18: a step of another instruction keeps the list of cells and the configuration, so every read. -/
theorem onlyTwoInstructionsStore : Obligations.OnlyTwoInstructionsStore := by
  intro s t h hB hM a
  have hmem : t.mem = s.mem := step_keeps State.mem h fun _ hu => exec_keeps_mem hu hB hM
  exact State.readByte_congr hmem (step_keeps_cfg h) a

/-- Settles O19: a step of another instruction keeps the screen. -/
theorem onlyClsAndDrwChangePixels : Obligations.OnlyClsAndDrwChangePixels := by
  intro s t h hcls hdrw R C
  have hfb : t.fb = s.fb := step_keeps State.fb h fun _ hu => exec_keeps_fb hu hcls hdrw
  exact State.pixel_congr hfb R C

/-- Settles O20: of the phases of a step only the instruction can touch I. -/
theorem onlyThreeInstructionsWriteI : Obligations.OnlyThreeInstructionsWriteI := fun _ _ h hld hadd hfont =>
  step_keeps State.i h fun _ hu => exec_keeps_i hu hld hadd hfont

/-- Settles O22: the instruction leaves the inputs, and the end of a completed step drops one sample. -/
theorem configStaysAndOneSampleIsUsed : Obligations.ConfigStaysAndOneSampleIsUsed := by
  intro s t h
  refine ⟨step_keeps_cfg h, fun hs ht => ?_⟩
  obtain ⟨u, hu, -, rfl⟩ := exec_of_step hs h ht
  obtain ⟨-, hin, hdrawn⟩ := exec_keeps_environment hu
  exact ⟨congrArg List.tail hin, congrArg (· + 1) hdrawn⟩

/-- Settles O21: a flag writer raises no fault, so its step ends with what it left in VF. -/
theorem registersChangeOnlyAsDestinationOrFlag : Obligations.RegistersChangeOnlyAsDestinationOrFlag := by
  intro s t hs h
  refine ⟨fun hf => ?_, fun r hd hf => ?_⟩
  · obtain ⟨u, hu⟩ := exec_total s.nextInstr s.preIncrement
    obtain ⟨huf, -⟩ | ⟨-, ⟨nnn, e⟩, -⟩ | ⟨-, e, -⟩ := exec_fault_cases hu hs
    · cases (step_of_exec hs hu huf).symm.trans h
      exact exec_flag (u := u) hu hf
    · rw [e] at hf
      cases hf
    · rw [e] at hf
      cases hf
  · exact step_keeps (·.reg r) h fun _ hu => exec_keeps_reg hu hd hf

/-! ## The invariant (00_scope.md R8; log 10) -/

theorem State.writeBytes_inv {s : State} (h : StateInv s) (a : Nat) (xs : List Byte) :
    StateInv (s.writeBytes a xs) := by
  obtain ⟨hcfg, hmem⟩ := h
  rw [State.writeBytes_eq]
  exact ⟨hcfg, State.writeBytes_wf hmem a xs⟩

/-- The invariant sees the configuration and memory only. -/
theorem StateInv.congr {s t : State} (h : StateInv s) (hc : t.cfg = s.cfg) (hm : t.mem = s.mem) : StateInv t := by
  rwa [StateInv, hc, hm]

/-- The two stores write through `writeBytes`, and every other meaning leaves memory. -/
theorem exec_keeps_inv {i : Instr} {s u : State} (hs : StateInv s) (h : exec i s = .next u) : StateInv u := by
  by_cases hB : ∃ x, i = .ldBVx x
  · obtain ⟨x, rfl⟩ := hB
    cases h
    exact State.writeBytes_inv hs ..
  by_cases hM : ∃ x, i = .ldMemVx x
  · obtain ⟨x, rfl⟩ := hM
    cases h
    exact State.writeBytes_inv hs ..
  obtain ⟨hcfg, -⟩ := exec_keeps_environment h
  exact hs.congr hcfg (exec_keeps_mem h (fun x e => hB ⟨x, e⟩) fun x e => hM ⟨x, e⟩)

/-- Settles O23: the phases around the instruction touch neither the configuration nor memory. -/
theorem stepKeepsTheInvariant : Obligations.StepKeepsTheInvariant := by
  intro s t hs h
  obtain ⟨-, rfl⟩ | ⟨-, u, hu, ⟨-, rfl⟩ | ⟨f, -, rfl⟩⟩ := step_cases h
  · exact hs
  · exact (exec_keeps_inv (s := s.preIncrement) hs hu).congr rfl rfl
  · exact hs.congr rfl rfl

/-- Settles O2: reset lists no cell, and the default configuration is a legal one. -/
theorem resetMeetsTheInvariant : Obligations.ResetMeetsTheInvariant :=
  ⟨⟨by decide, Memory.wf_nil defaultConfig⟩, fun c hc => ⟨hc, Memory.wf_nil c⟩⟩

/-- Settles O3: the two states differ in the inputs alone, which the reset line takes over from the machine. -/
theorem hostResetRestoresTheResetState : Obligations.HostResetRestoresTheResetState := by
  intro s
  refine ⟨fun p hp => ?_, rfl, rfl⟩
  cases p
  case inputs => exact absurd rfl hp
  all_goals rfl

/-! ## Faults (60_exceptions.md R170 to R177) -/

theorem State.raise_changesOnly (s : State) (f : Fault) : ChangesOnly (· = .faultLatch) s (s.raise f) := by
  intro p hp
  cases p
  case faultLatch => exact absurd rfl hp
  case inputs => exact ⟨rfl, rfl⟩
  all_goals rfl

/-- Settles O14: the execute phase's three outcomes, and a raised fault leaves the old state with its latch set. -/
theorem faultsAreExactlyOverflowAndUnderflow : Obligations.FaultsAreExactlyOverflowAndUnderflow := by
  intro s t hs h
  obtain ⟨u, hu⟩ := exec_total s.nextInstr s.preIncrement
  obtain ⟨hf, hnc, hnr⟩ | ⟨hf, ⟨nnn, hc⟩, hsp⟩ | ⟨hf, hr, hsp⟩ := exec_fault_cases hu hs
  · cases (step_of_exec hs hu hf).symm.trans h
    have ht : u.tick.nextSample.fault = none := hf
    rw [ht]
    exact ⟨iff_of_false nofun hnc, iff_of_false nofun hnr, fun hne => absurd rfl hne⟩
  · cases (step_of_exec_fault hs hu hf).symm.trans h
    refine ⟨iff_of_true rfl ⟨⟨nnn, hc⟩, hsp⟩, iff_of_false nofun fun ⟨hr, _⟩ => ?_, fun _ => s.raise_changesOnly _⟩
    cases hc.symm.trans hr
  · cases (step_of_exec_fault hs hu hf).symm.trans h
    refine ⟨iff_of_false nofun fun ⟨⟨nnn, hc⟩, _⟩ => ?_, iff_of_true rfl ⟨hr, hsp⟩, fun _ => s.raise_changesOnly _⟩
    cases hr.symm.trans hc

/-- Settles O33: each meaning raises its fault at its end of the stack, and the step discards the rest. -/
theorem callAndRetFaultAtTheEnds : Obligations.CallAndRetFaultAtTheEnds := by
  intro s hs
  refine ⟨fun nnn hi hsp => ⟨?_, rfl⟩, fun hi hsp => ⟨?_, rfl⟩⟩
  · exact step_of_exec_fault hs (hi ▸ exec_call_of_full (s := s.preIncrement) nnn hsp) rfl
  · exact step_of_exec_fault hs (hi ▸ exec_ret_of_zero (s := s.preIncrement) hsp) rfl

/-- Settles O11: the two bytes are the fetched word, so the meaning given is the step's, and the step ends as
`State.settle` says. -/
theorem stepRunsTheDecodedInstruction : Obligations.StepRunsTheDecodedInstruction := by
  intro s t i hs hdec hexec
  have hi : s.nextInstr = i := by
    rw [State.readByte_mod, State.readByte_mod, decode_two] at hdec
    exact congrArg Prod.fst (Except.ok.inj hdec)
  have hu : exec s.nextInstr s.preIncrement = .next t := hi ▸ hexec
  exact ⟨fun ht => step_of_exec hs hu ht, fun f ht => step_of_exec_fault hs hu ht⟩

end Sys2Proof.Machine

namespace Sys2Proof.Machine

/-! ## Runs (60_exceptions.md R177, R178) -/

theorem runs_zero {s t : State} : Runs 0 s t ↔ t = s :=
  ⟨fun h => (Host.Outcome.next.inj h).symm, fun h => congrArg Host.Outcome.next h.symm⟩

theorem runs_succ {k : Nat} {s t u : State} (h : step s = .next u) : Runs (k + 1) s t ↔ Runs k u t := by
  have hrun : Sys2Proof.core.run (k + 1) s = Sys2Proof.core.run k u := by
    have hcore : Sys2Proof.core.step s = .next u := h
    simp only [Host.Core.run, hcore]
  rw [Runs, Runs, hrun]

/-- A faulted machine stays as it is. -/
theorem runs_of_fault {s : State} (hs : s.fault ≠ none) (k : Nat) : Runs k s s := by
  induction k with
  | zero => exact runs_zero.mpr rfl
  | succ k ih => exact (runs_succ (step_of_fault hs)).mpr ih

theorem Runs.unique {k : Nat} {s t t' : State} (h : Runs k s t) (h' : Runs k s t') : t' = t :=
  Host.Outcome.next.inj (h'.symm.trans h)

/-- A run that ends without a fault began without one. -/
theorem SafeRun.fault_eq_none {k : Nat} {s : State} (h : SafeRun k s) : s.fault = none := by
  obtain ⟨t, hrun, ht⟩ := h
  by_contra hs
  exact hs (hrun.unique (runs_of_fault hs k) ▸ ht)

theorem SafeRun.mono {j k : Nat} {s : State} (hjk : j ≤ k) (h : SafeRun k s) : SafeRun j s := by
  induction j generalizing k s with
  | zero => exact ⟨s, runs_zero.mpr rfl, h.fault_eq_none⟩
  | succ j ih =>
    obtain ⟨k, rfl⟩ := Nat.exists_eq_succ_of_ne_zero (by omega : k ≠ 0)
    obtain ⟨t, hrun, ht⟩ := h
    obtain ⟨u, hu⟩ := step_total s
    obtain ⟨v, hv, hvf⟩ := ih (by omega) ⟨t, (runs_succ hu).mp hrun, ht⟩
    exact ⟨v, (runs_succ hu).mpr hv, hvf⟩

/-- Settles O13: a fault stays, so a run that ends without one never had one. -/
theorem faultIsStickyAlongRuns : Obligations.FaultIsStickyAlongRuns :=
  ⟨fun k _ hs => runs_of_fault hs k, fun _ _ _ => SafeRun.mono⟩

/-- One step of a running machine that sets no delay timer takes one from it. -/
theorem step_dt_of_ne_ldDTVx {s t : State} (hs : s.fault = none) (h : step s = .next t) (ht : t.fault = none)
    (hi : ∀ x, s.nextInstr ≠ .ldDTVx x) : t.dt.toNat = s.dt.toNat - 1 := by
  obtain ⟨u, hu, -, rfl⟩ := exec_of_step hs h ht
  obtain ⟨hdt, -⟩ := exec_keeps_timers hu
  rw [State.tick_nextSample_dt_toNat, hdt hi, State.preIncrement_dt]

/-- Settles O26, by induction on the number of steps, the first one taken off. -/
theorem delayTimerCountsStepsDown : Obligations.DelayTimerCountsStepsDown := by
  intro k
  induction k with
  | zero =>
    intro s t hrun _ _
    rw [runs_zero.mp hrun, Nat.sub_zero]
  | succ k ih =>
    intro s t hrun ht hset
    obtain ⟨u, hu⟩ := step_total s
    have hrun' : Runs k u t := (runs_succ hu).mp hrun
    have hs : s.fault = none := SafeRun.fault_eq_none ⟨t, hrun, ht⟩
    have huf : u.fault = none := SafeRun.fault_eq_none ⟨t, hrun', ht⟩
    have hfirst : u.dt.toNat = s.dt.toNat - 1 :=
      step_dt_of_ne_ldDTVx hs hu huf (hset 0 (by omega) s (runs_zero.mpr rfl))
    have hrest : t.dt.toNat = u.dt.toNat - k := ih u t hrun' ht fun j hj v hv =>
      hset (j + 1) (by omega) v ((runs_succ hu).mpr hv)
    omega

/-! ## Where an instruction leaves the pc (10_state.md R24) -/

/-- Past the instruction, and past the next one. -/
theorem add_two_add_two (w : Word) : w + 2 + 2 = w + 4 := by
  rw [BitVec.add_assoc]
  rfl

/-- An entry by its number, as a register number too. -/
theorem stack_ofNat (m : Vector Word 16) {k : Nat} (hk : k < 16) : m[Fin.ofNat 16 k] = m[k] := by
  simp [Nat.mod_eq_of_lt hk]

theorem exec_skp (x : Reg) (s : State) : exec (.skp x) s = .next (s.skipIf (s.key (s.keyNumber x))) := rfl

theorem exec_sknp (x : Reg) (s : State) : exec (.sknp x) s = .next (s.skipIf !s.key (s.keyNumber x)) := rfl

theorem State.skipIf_not (s : State) (c : Bool) :
    s.skipIf (!c) = { s with pc := if c = true then s.pc else s.pc + 2 } := by
  cases c <;> rfl

/-- Settles O36: the key tested is the one of the register's low four bits, and a skip moves the pc alone. -/
theorem skipsOnKeysMoveOnlyThePc : Obligations.SkipsOnKeysMoveOnlyThePc := by
  intro s x k hk
  obtain rfl : k = s.keyNumber x := Fin.ext hk
  exact ⟨exec_skp x s, (exec_sknp x s).trans (congrArg Host.Outcome.next (s.skipIf_not _))⟩

/-- Settles O16: each meaning's own write of the pc, over the pre-increment where it has none. -/
theorem pcAfterEveryStep : Obligations.PcAfterEveryStep := by
  intro s t hs h ht
  obtain ⟨u, hu, huf, rfl⟩ := exec_of_step hs h ht
  show u.pc = _
  generalize s.nextInstr = i at hu
  cases i
  case ret =>
    obtain ⟨-, rfl⟩ | ⟨-, rfl⟩ := exec_ret_inv hu
    · cases huf
    · exact (stack_ofNat s.stack (by omega)).symm
  case call nnn =>
    obtain ⟨-, rfl⟩ | ⟨-, rfl⟩ := exec_call_inv hu
    · cases huf
    · rfl
  case seVxKk | seVxVy =>
    cases hu
    rw [State.skipIf_decide, State.preIncrement_pc, add_two_add_two]
    rfl
  case sneVxKk | sneVxVy =>
    cases hu
    rw [State.skipIf_decide_not, State.preIncrement_pc, add_two_add_two]
    rfl
  case skp =>
    cases hu
    rw [State.skipIf_pc, State.preIncrement_pc, add_two_add_two]
    rfl
  case sknp =>
    cases hu
    rw [State.skipIf_not, State.preIncrement_pc, add_two_add_two]
    rfl
  case ldVxK x =>
    have hkey : s.preIncrement.lowestKey = s.lowestKey := rfl
    cases hk : s.lowestKey with
    | none =>
      cases (exec_ldVxK_of_lowestKey_none x (hkey.trans hk)).symm.trans hu
      exact BitVec.add_sub_cancel s.pc 2
    | some k =>
      cases (exec_ldVxK_of_lowestKey_some x (hkey.trans hk)).symm.trans hu
      rfl
  case ldBVx | ldMemVx =>
    cases hu
    rw [State.writeBytes_eq]
    rfl
  case ldVxMem x =>
    rw [eq_loadRegs_of_exec hu, State.loadRegs_pc]
    rfl
  all_goals
    cases hu
    rfl

/-! ## Control transfer (41_control_transfer.md R100, R102, R107) -/

theorem exec_jpV0 (nnn : BitVec 12) (s : State) : exec (.jpV0 nnn) s = .next (s.jump (s.indexedTarget nnn)) := rfl

/-- A byte and a 12-bit address sum to less than a word holds. -/
theorem State.indexedTarget_toNat (s : State) (nnn : BitVec 12) :
    (s.indexedTarget nnn).toNat = (s.reg 0).toNat + nnn.toNat := by
  rw [State.indexedTarget, BitVec.toNat_add, zextByte_toNat, zext_toNat]
  omega

/-- Settles O30: the meaning is a jump to the unreduced sum. -/
theorem jpV0AddsRegisterZero : Obligations.JpV0AddsRegisterZero := fun s nnn =>
  ⟨_, exec_jpV0 nnn s, s.indexedTarget_toNat nnn, s.jump_changesOnly _⟩

/-- Settles O31: the entry at the old SP is the only one the push sets. -/
theorem callPushesAndJumps : Obligations.CallPushesAndJumps := by
  intro s nnn hsp
  refine ⟨_, exec_call_of_lt nnn hsp, zext_toNat nnn, rfl, ?_, fun p hp => ?_⟩
  · rw [stack_ofNat _ hsp, Vector.getElem_set_self]
  · cases p
    case pc | sp => simp at hp
    case stackEntry k =>
      have hk : k ≠ Fin.ofNat 16 s.sp.val := fun e => hp (.inr (.inr (congrArg Part.stackEntry e)))
      have hne : s.sp.val ≠ k.val := fun e => hk (Fin.ext (by rw [Fin.val_ofNat]; omega))
      exact Vector.getElem_set_ne hsp k.isLt hne
    case inputs => exact ⟨rfl, rfl⟩
    all_goals rfl

/-- Settles O32: the pop moves SP and leaves the entry. -/
theorem retPopsIntoThePc : Obligations.RetPopsIntoThePc := by
  intro s hsp
  refine ⟨_, exec_ret_of_pos hsp, rfl, (stack_ofNat s.stack (by omega)).symm, fun p hp => ?_⟩
  cases p
  case pc | sp => simp at hp
  case inputs => exact ⟨rfl, rfl⟩
  all_goals rfl

theorem step_call {s : State} {nnn : BitVec 12} (hs : s.fault = none) (hi : s.nextInstr = .call nnn)
    (hsp : s.sp.val < 16) :
    ∃ t, step s = .next t ∧ t.fault = none ∧ t.pc = zext nnn ∧ t.sp.val = s.sp.val + 1 ∧
      t.stack = s.stack.set s.sp.val (s.pc + 2) hsp ∧ ∀ a, t.readByte a = s.readByte a := by
  have hexec := exec_call_of_lt (s := s.preIncrement) nnn hsp
  rw [← hi] at hexec
  exact ⟨_, step_of_exec hs hexec hs, hs, rfl, rfl, rfl, fun _ => rfl⟩

theorem step_ret {s : State} (hs : s.fault = none) (hi : s.nextInstr = .ret) (hsp : 0 < s.sp.val) :
    ∃ t, step s = .next t ∧ t.fault = none ∧ t.pc = s.stack[s.sp.val - 1] ∧ t.sp.val = s.sp.val - 1 ∧
      t.stack = s.stack := by
  have hexec := exec_ret_of_pos (s := s.preIncrement) hsp
  rw [← hi] at hexec
  exact ⟨_, step_of_exec hs hexec hs, hs, rfl, rfl, rfl⟩

/-- Settles O34: the CALL leaves the return address at the old SP, and the RET it jumps to takes it from there. -/
theorem callThenRetReturns : Obligations.CallThenRetReturns := by
  intro s nnn hs hsp hcall hret
  obtain ⟨t, hstep, ht, htpc, htsp, htstack, htmem⟩ := step_call hs hcall hsp
  have hti : t.nextInstr = .ret := by
    rw [State.nextInstr, State.fetchWord, htpc, zext_toNat, htmem, htmem, hret]
  obtain ⟨u, hstep', hu, hupc, husp, hustack⟩ := step_ret ht hti (by omega)
  have hentry : t.stack[s.sp.val] = s.pc + 2 := by simp only [htstack, Vector.getElem_set_self]
  refine ⟨t, u, hstep, hstep', ?_, Fin.ext (by omega), hu, ?_⟩
  · simp only [hupc, htsp, Nat.add_sub_cancel, hentry]
  · rw [hustack, stack_ofNat _ hsp, hentry]

/-! ## The index register, the key wait -/

theorem exec_addIVx (x : Reg) (s : State) : exec (.addIVx x) s = .next (s.setI (s.i + zextByte (s.reg x))) := rfl

/-- Settles O46: the sum of two words is modulo 2^16 already. -/
theorem addToTheIndexRegister : Obligations.AddToTheIndexRegister := by
  intro s x
  refine ⟨_, exec_addIVx x s, ?_, s.setI_changesOnly _⟩
  rw [State.setI_i, BitVec.toNat_add, zextByte_toNat]

/-- Settles O53: there is no lowest key exactly when none is down. -/
theorem waitingIsTheKeyReadWithNoKeyDown : Obligations.WaitingIsTheKeyReadWithNoKeyDown := by
  intro s
  have hkeys : s.lowestKey.isNone = true ↔ ∀ k : Key, s.sample.keys[k] = false :=
    Option.isNone_iff_eq_none.trans State.lowestKey_eq_none
  unfold State.waiting State.nextInstr
  split
  next x hi => rw [hkeys, hi]; simp
  next hi => simp_all

end Sys2Proof.Machine

namespace Sys2Proof.Machine

/-! ## Two machines that differ by multiples of 4096 in pc, I and saved pcs (10_state.md R23; 90_conflicts.md C7) -/

/-- The state with other addresses in pc, I and STACK. -/
def State.withAddrs (s : State) (pc i : Word) (stack : Vector Word 16) : State :=
  { s with pc := pc, i := i, stack := stack }

theorem alias_iff {s t : State} : Alias s t ↔ ∃ pc i stack, t = s.withAddrs pc i stack ∧
    pc.toNat % 4096 = s.pc.toNat % 4096 ∧ i.toNat % 4096 = s.i.toNat % 4096 ∧
    ∀ k : Fin 16, stack[k].toNat % 4096 = s.stack[k].toNat % 4096 := by
  constructor
  · rintro ⟨hpc, hi, hstack, he⟩
    refine ⟨t.pc, t.i, t.stack, ?_, hpc, hi, hstack⟩
    rw [← he]
    rfl
  · rintro ⟨pc, i, stack, rfl, hpc, hi, hstack⟩
    exact ⟨hpc, hi, hstack, rfl⟩

/-! ### Arithmetic and accesses at aliased addresses -/

theorem toNat_add_mod_congr {a b : Word} (h : a.toNat % 4096 = b.toNat % 4096) (c : Word) :
    (a + c).toNat % 4096 = (b + c).toNat % 4096 := by
  rw [BitVec.toNat_add, BitVec.toNat_add]
  omega

theorem toNat_sub_mod_congr {a b : Word} (h : a.toNat % 4096 = b.toNat % 4096) (c : Word) :
    (a - c).toNat % 4096 = (b - c).toNat % 4096 := by
  rw [BitVec.toNat_sub, BitVec.toNat_sub]
  omega

theorem skip_mod_congr {a b : Word} (h : a.toNat % 4096 = b.toNat % 4096) (taken : Bool) :
    (if taken then a + 2 else a).toNat % 4096 = (if taken then b + 2 else b).toNat % 4096 := by
  cases taken
  · exact h
  · exact toNat_add_mod_congr h 2

theorem hold_mod_congr {a b : Word} (h : a.toNat % 4096 = b.toNat % 4096) (held : Bool) :
    (if held then a - 2 else a).toNat % 4096 = (if held then b - 2 else b).toNat % 4096 := by
  cases held
  · exact h
  · exact toNat_sub_mod_congr h 2

theorem State.readByte_congr_mod (s : State) {a b : Nat} (h : a % 4096 = b % 4096) : s.readByte a = s.readByte b := by
  rw [← s.readByte_mod a, h, s.readByte_mod]

theorem State.writeBytes_congr_mod (s : State) {a b : Nat} (h : a % 4096 = b % 4096) (xs : List Byte) :
    s.writeBytes a xs = s.writeBytes b xs := by
  induction xs generalizing s a b with
  | nil => rfl
  | cons x xs ih =>
    have hbyte : s.writeByte a x = s.writeByte b x := by rw [State.writeByte, State.writeByte, h]
    have hnext : (a + 1) % 4096 = (b + 1) % 4096 := by omega
    rw [State.writeBytes, State.writeBytes, hbyte, ih _ hnext]

section Accesses

variable (s : State) {pc i : Word} (stack : Vector Word 16)

theorem State.writeBytes_withAddrs (a : Nat) (xs : List Byte) :
    (s.withAddrs pc i stack).writeBytes a xs = (s.writeBytes a xs).withAddrs pc i stack := by
  induction xs generalizing s a with
  | nil => rfl
  | cons x xs ih => exact ih (s.writeByte a x) (a + 1)

theorem State.fetchWord_withAddrs (h : pc.toNat % 4096 = s.pc.toNat % 4096) :
    (s.withAddrs pc i stack).fetchWord = s.fetchWord := by
  have hnext : (pc.toNat + 1) % 4096 = (s.pc.toNat + 1) % 4096 := by omega
  exact congrArg₂ wordOfBytes (s.readByte_congr_mod h) (s.readByte_congr_mod hnext)

variable (h : i.toNat % 4096 = s.i.toNat % 4096)
include h

theorem State.readByte_dataBase_withAddrs (k : Nat) :
    (s.withAddrs pc i stack).readByte ((s.withAddrs pc i stack).dataBase + k) = s.readByte (s.dataBase + k) := by
  have hk : (i.toNat + k) % 4096 = (s.i.toNat + k) % 4096 := by omega
  exact s.readByte_congr_mod hk

theorem State.drawSprite_withAddrs (y x n : Nat) : (s.withAddrs pc i stack).drawSprite y x n = s.drawSprite y x n := by
  simp only [State.drawSprite, State.spriteByte, s.readByte_dataBase_withAddrs stack h]
  rfl

theorem State.loadRegs_withAddrs (x : Reg) :
    (s.withAddrs pc i stack).loadRegs x (s.withAddrs pc i stack).dataBase =
      (s.loadRegs x s.dataBase).withAddrs pc i stack := by
  simp only [State.loadRegs, s.readByte_dataBase_withAddrs stack h]
  rfl

theorem State.writeBytes_dataBase_withAddrs (xs : List Byte) :
    (s.withAddrs pc i stack).writeBytes (s.withAddrs pc i stack).dataBase xs =
      (s.writeBytes s.dataBase xs).withAddrs pc i stack := by
  rw [State.writeBytes_withAddrs]
  exact congrArg (·.withAddrs pc i stack) (s.writeBytes_congr_mod h xs)

end Accesses

/-! ### The instructions and the step -/

/-- Whatever an instruction does to one machine it does to the other, at aliased addresses. -/
theorem exec_alias {i : Instr} {s t u : State} (h : Alias s t) (hu : exec i s = .next u) :
    ∃ u', exec i t = .next u' ∧ Alias u u' := by
  obtain ⟨pc, ind, stack, rfl, hpc, hi, hstack⟩ := alias_iff.mp h
  simp only [alias_iff]
  cases i
  case ret =>
    obtain ⟨h0, rfl⟩ | ⟨hpos, rfl⟩ := exec_ret_inv hu
    · exact ⟨_, exec_ret_of_zero (s := s.withAddrs pc ind stack) h0, pc, ind, stack, rfl, hpc, hi, hstack⟩
    · exact ⟨_, exec_ret_of_pos (s := s.withAddrs pc ind stack) hpos, _, ind, stack, rfl,
        hstack ⟨s.sp.val - 1, by omega⟩, hi, hstack⟩
  case call nnn =>
    obtain ⟨hfull, rfl⟩ | ⟨hlt, rfl⟩ := exec_call_inv hu
    · exact ⟨_, exec_call_of_full (s := s.withAddrs pc ind stack) nnn hfull, pc, ind, stack, rfl, hpc, hi, hstack⟩
    · refine ⟨_, exec_call_of_lt (s := s.withAddrs pc ind stack) nnn hlt, _, ind, _, rfl, rfl, hi, fun k => ?_⟩
      by_cases hk : s.sp.val = k.val
      · simpa [State.withAddrs, hk] using hpc
      · simpa [State.withAddrs, Vector.getElem_set_ne _ _ hk] using hstack k
  case seVxKk | sneVxKk | seVxVy | sneVxVy | skp | sknp =>
    cases hu
    exact ⟨_, rfl, _, ind, stack, rfl, skip_mod_congr hpc _, hi, hstack⟩
  case ldVxK =>
    cases hu
    exact ⟨_, rfl, _, ind, stack, rfl, hold_mod_congr hpc _, hi, hstack⟩
  case addIVx =>
    cases hu
    exact ⟨_, rfl, pc, _, stack, rfl, hpc, toNat_add_mod_congr hi _, hstack⟩
  case ldBVx x =>
    cases (exec_ldBVx x s).symm.trans hu
    refine ⟨_, exec_ldBVx x _, pc, ind, stack, s.writeBytes_dataBase_withAddrs stack hi _, ?_⟩
    rw [State.writeBytes_eq]
    exact ⟨hpc, hi, hstack⟩
  case ldMemVx x =>
    cases (exec_ldMemVx x s).symm.trans hu
    refine ⟨_, exec_ldMemVx x _, pc, ind, stack, s.writeBytes_dataBase_withAddrs stack hi _, ?_⟩
    rw [State.writeBytes_eq]
    exact ⟨hpc, hi, hstack⟩
  case ldVxMem x =>
    obtain rfl := eq_loadRegs_of_exec hu
    refine ⟨_, exec_ldVxMem x _, pc, ind, stack, s.loadRegs_withAddrs stack hi x, ?_⟩
    rw [State.loadRegs_pc, State.loadRegs_i, State.loadRegs_stack]
    exact ⟨hpc, hi, hstack⟩
  case drw x y n =>
    cases hu
    refine ⟨_, rfl, pc, ind, stack, ?_, hpc, hi, hstack⟩
    rw [State.drawSprite_withAddrs s stack hi]
    rfl
  case jp | jpV0 =>
    cases hu
    exact ⟨_, rfl, _, ind, stack, rfl, rfl, hi, hstack⟩
  case ldI | ldFVx =>
    cases hu
    exact ⟨_, rfl, pc, _, stack, rfl, hpc, rfl, hstack⟩
  all_goals
    cases hu
    exact ⟨_, rfl, pc, ind, stack, rfl, hpc, hi, hstack⟩

/-- Settles O24: aliased machines fetch the same word, start its execute phase aliased, and end it so. -/
theorem aliasedMachinesStepAlike : Obligations.AliasedMachinesStepAlike := by
  intro s t s' hst h
  obtain ⟨pc, ind, stack, rfl, hpc, hi, hstack⟩ := alias_iff.mp hst
  obtain ⟨hf, rfl⟩ | ⟨hf, u, hu, hend⟩ := step_cases h
  · exact ⟨_, step_of_fault hf, hst⟩
  have hpre : Alias s.preIncrement (s.withAddrs pc ind stack).preIncrement :=
    alias_iff.mpr ⟨_, ind, stack, rfl, toNat_add_mod_congr hpc 2, hi, hstack⟩
  obtain ⟨u', hu', halias⟩ := exec_alias hpre hu
  rw [← State.fetchWord_withAddrs s stack hpc] at hu'
  obtain ⟨pc', ind', stack', rfl, hpc', hi', hstack'⟩ := alias_iff.mp halias
  obtain ⟨huf, rfl⟩ | ⟨f, huf, rfl⟩ := hend
  · exact ⟨_, step_of_exec hf hu' huf, alias_iff.mpr ⟨pc', ind', stack', rfl, hpc', hi', hstack'⟩⟩
  · exact ⟨_, step_of_exec_fault hf hu' huf, alias_iff.mpr ⟨pc, ind, stack, rfl, hpc, hi, hstack⟩⟩

/-! ## Two machines that differ in the inputs alone (10_state.md R34, R35) -/

/-- The state with other inputs. -/
def State.withInputs (s : State) (inputs : List Sample) (drawn : Nat) : State :=
  { s with inputs := inputs, drawn := drawn }

theorem sameButInputs_iff {s t : State} : SameButInputs s t ↔ ∃ inputs drawn, t = s.withInputs inputs drawn := by
  constructor
  · intro he
    refine ⟨t.inputs, t.drawn, ?_⟩
    rw [← (he : { t with inputs := s.inputs, drawn := s.drawn } = s)]
    rfl
  · rintro ⟨inputs, drawn, rfl⟩
    rfl

theorem State.writeBytes_withInputs (s : State) (inputs : List Sample) (drawn a : Nat) (xs : List Byte) :
    (s.withInputs inputs drawn).writeBytes a xs = (s.writeBytes a xs).withInputs inputs drawn := by
  induction xs generalizing s a with
  | nil => rfl
  | cons x xs ih => exact ih (s.writeByte a x) (a + 1)

/-- An instruction that reads no input does to one machine what it does to the other. -/
theorem exec_withInputs {i : Instr} {s u : State} (hi : readsInput i = false) (hu : exec i s = .next u)
    (inputs : List Sample) (drawn : Nat) :
    exec i (s.withInputs inputs drawn) = .next (u.withInputs inputs drawn) := by
  cases i
  case rnd | skp | sknp | ldVxK => cases hi
  case ret =>
    obtain ⟨h0, rfl⟩ | ⟨hpos, rfl⟩ := exec_ret_inv hu
    · exact exec_ret_of_zero (s := s.withInputs inputs drawn) h0
    · exact exec_ret_of_pos (s := s.withInputs inputs drawn) hpos
  case call nnn =>
    obtain ⟨hfull, rfl⟩ | ⟨hlt, rfl⟩ := exec_call_inv hu
    · exact exec_call_of_full (s := s.withInputs inputs drawn) nnn hfull
    · exact exec_call_of_lt (s := s.withInputs inputs drawn) nnn hlt
  case ldBVx x =>
    cases (exec_ldBVx x s).symm.trans hu
    exact (exec_ldBVx x _).trans (congrArg Host.Outcome.next (s.writeBytes_withInputs inputs drawn _ _))
  case ldMemVx x =>
    cases (exec_ldMemVx x s).symm.trans hu
    exact (exec_ldMemVx x _).trans (congrArg Host.Outcome.next (s.writeBytes_withInputs inputs drawn _ _))
  case ldVxMem x =>
    rw [eq_loadRegs_of_exec hu]
    exact exec_ldVxMem x _
  all_goals
    cases hu
    rfl

/-- Settles O25: the fetch sees no input either, and both machines use up one sample. -/
theorem onlyFourInstructionsSeeTheInputs : Obligations.OnlyFourInstructionsSeeTheInputs := by
  intro s t s' hst hi h
  obtain ⟨inputs, drawn, rfl⟩ := sameButInputs_iff.mp hst
  obtain ⟨hf, rfl⟩ | ⟨hf, u, hu, hend⟩ := step_cases h
  · exact ⟨_, step_of_fault hf, hst⟩
  have hu' := exec_withInputs hi hu inputs drawn
  obtain ⟨huf, rfl⟩ | ⟨f, huf, rfl⟩ := hend
  · exact ⟨_, step_of_exec (s := s.withInputs inputs drawn) hf hu' huf, rfl⟩
  · exact ⟨_, step_of_exec_fault (s := s.withInputs inputs drawn) hf hu' huf, rfl⟩

end Sys2Proof.Machine

namespace Sys2Proof.Machine

/-! ## Bytes stored, and read back (20_memory.md R51, R52, R54) -/

section Store

variable {s : State} (hwf : Memory.wf s.cfg s.mem = true)
include hwf

theorem State.writeBytes_changesOnly (a : Nat) (xs : List Byte) :
    ChangesOnly (BytesFrom a xs.length) s (s.writeBytes a xs) := by
  intro p hp
  cases p
  case byte b => exact State.readByte_writeBytes_other hwf a xs b fun k hk e => hp ⟨b, rfl, k, hk, e⟩
  all_goals rw [State.writeBytes_eq]
  case inputs => exact ⟨rfl, rfl⟩
  all_goals rfl

/-- The registers stored read back, each at its address modulo 4096. -/
theorem State.readByte_writeBytes_regsUpTo (a : Nat) {x r : Reg} (hr : r ≤ x) :
    (s.writeBytes a (s.regsUpTo x)).readByte ((a + r.val) % 4096) = s.reg r := by
  have hlen := s.regsUpTo_length x
  have hle : r.val ≤ x.val := hr
  rw [State.readByte_mod, State.readByte_writeBytes_same hwf a _ (by omega) r.val (by omega), State.regsUpTo_get]

end Store

theorem digit_toNat (b : Byte) : (BitVec.ofNat 8 (b.toNat / 100)).toNat = b.toNat / 100 ∧
    (BitVec.ofNat 8 (b.toNat / 10 % 10)).toNat = b.toNat / 10 % 10 ∧
    (BitVec.ofNat 8 (b.toNat % 10)).toNat = b.toNat % 10 := by
  have hb := b.isLt
  simp only [BitVec.toNat_ofNat]
  omega

/-- Settles O47: the meaning writes the three digits, and no more. -/
theorem storeDigits : Obligations.StoreDigits := by
  intro s x hwf
  have hread (k : Nat) (hk : k < 3) :=
    State.readByte_writeBytes_same hwf s.dataBase (digits (s.reg x)) (by simp [digits]) k hk
  obtain ⟨hundreds, htens, hones⟩ := digit_toNat (s.reg x)
  refine ⟨_, exec_ldBVx x s, ?_, ?_, ?_, State.writeBytes_changesOnly hwf s.dataBase (digits (s.reg x))⟩
  · rw [State.readByte_mod, ← hundreds]
    exact congrArg BitVec.toNat (hread 0 (by decide))
  · rw [State.readByte_mod, ← htens]
    exact congrArg BitVec.toNat (hread 1 (by decide))
  · rw [State.readByte_mod, ← hones]
    exact congrArg BitVec.toNat (hread 2 (by decide))

/-- Settles O48: the meaning writes the registers up to V[x], and no more. -/
theorem storeRegisters : Obligations.StoreRegisters := by
  intro s x hwf
  refine ⟨_, exec_ldMemVx x s, fun r hr => State.readByte_writeBytes_regsUpTo hwf s.dataBase hr, ?_⟩
  have hframe := State.writeBytes_changesOnly hwf s.dataBase (s.regsUpTo x)
  rwa [State.regsUpTo_length] at hframe

theorem State.loadRegs_changesOnly (s : State) (x : Reg) (a : Nat) :
    ChangesOnly (fun p => ∃ r ≤ x, p = .reg r) s (s.loadRegs x a) := by
  intro p hp
  cases p
  case reg r =>
    have hr : ¬ r ≤ x := fun h => hp ⟨r, h, rfl⟩
    simp [Part.same, hr]
  case byte b => exact State.readByte_congr (s.loadRegs_mem x a) (s.loadRegs_cfg x a) b
  case pixel R C => exact State.pixel_congr (s.loadRegs_fb x a) R C
  all_goals simp [Part.same]

/-- Settles O49: the meaning is one load of the registers up to V[x]. -/
theorem loadRegisters : Obligations.LoadRegisters := by
  intro s x
  refine ⟨_, exec_ldVxMem x s, fun r hr => ?_, s.loadRegs_changesOnly x _⟩
  rw [State.reg_loadRegs, if_pos hr, State.readByte_mod]

/-! ## The load port, and a word placed at the pc (70_reset_and_hazards.md R195 to R199; log 16) -/

theorem boot_of_le {c : Config} {image : List Byte} (h : image.length ≤ 4096 - c.progBase.toNat) :
    State.boot c image = .ok ((State.resetWith c).writeBytes c.progBase.toNat image) :=
  if_pos (decide_eq_true h)

theorem boot_of_lt {c : Config} {image : List Byte} (h : 4096 - c.progBase.toNat < image.length) :
    State.boot c image = .error .oversized := by
  have hfit : ¬ c.imageFits image = true := by simpa [Config.imageFits] using h
  exact if_neg hfit

/-- Settles O4: reset memory is canonical, so what is loaded reads back. -/
theorem bootLoadsTheImageOrRefusesIt : Obligations.BootLoadsTheImageOrRefusesIt := by
  intro c image hc
  have hwf : Memory.wf (State.resetWith c).cfg (State.resetWith c).mem = true := Memory.wf_nil c
  refine ⟨fun hfit => ⟨_, boot_of_le hfit, fun j hj => ?_, State.writeBytes_changesOnly hwf _ image⟩, boot_of_lt⟩
  exact State.readByte_writeBytes_same hwf _ image (by omega) j hj

/-- The two bytes at the pc are the next instruction's word. -/
theorem State.nextInstr_of_readByte {s : State} {hi lo : Byte} (hhi : s.readByte s.pc.toNat = hi)
    (hlo : s.readByte (s.pc.toNat + 1) = lo) : s.nextInstr = decodeWord (wordOfBytes hi lo) := by
  rw [State.nextInstr, State.fetchWord, hhi, hlo]

section PlaceWord

variable {s : State} (hwf : Memory.wf s.cfg s.mem = true) (w : Word)
include hwf

theorem State.nextInstr_placeWord : (s.placeWord w).nextInstr = decodeWord w := by
  have hpc : (s.placeWord w).pc = s.pc := by rw [State.placeWord, State.writeBytes_eq]
  have hread (k : Nat) (hk : k < 2) : (s.placeWord w).readByte ((s.placeWord w).pc.toNat + k) =
      [highByte w, lowByte w][k] := by
    rw [hpc]
    exact State.readByte_writeBytes_same hwf _ [highByte w, lowByte w] (by simp) k hk
  rw [State.nextInstr_of_readByte (hread 0 (by decide)) (hread 1 (by decide))]
  exact congrArg decodeWord (wordOfBytes_highByte_lowByte w)

theorem State.placeWord_changesOnly :
    ChangesOnly (fun p => BytesFrom s.pc.toNat 2 p ∨ p = .faultLatch) s (s.placeWord w) := by
  refine (State.writeBytes_changesOnly hwf s.pc.toNat [highByte w, lowByte w]).trans fun p hp => ?_
  cases p
  case faultLatch => exact absurd rfl hp
  case inputs => exact ⟨rfl, rfl⟩
  all_goals rfl

end PlaceWord

/-- Settles O5: the two bytes written at the pc are the ones fetched, and the table's word is the same 16 bits. -/
theorem placedWordRunsNext : Obligations.PlacedWordRunsNext := by
  intro s w hinv
  obtain ⟨-, hwf⟩ := hinv
  have hword : BitVec.ofNat 16 (w % 2 ^ 16) = BitVec.ofNat 16 w := BitVec.eq_of_toNat_eq (by simp)
  have hnext := State.nextInstr_placeWord hwf (BitVec.ofNat 16 w)
  rw [State.withFetchWord, hword]
  refine ⟨hnext, ?_, rfl, State.placeWord_changesOnly hwf _⟩
  rw [hnext, decodeTableWord, tableWordBytes, hword, decode_two, wordOfBytes_highByte_lowByte]

/-- Settles O27: the store leaves V[0] and V[1] where the next word is fetched. -/
theorem storedInstructionIsFetchedNext : Obligations.StoredInstructionIsFetchedNext := by
  intro s x hinv hs hi hx haddr
  obtain ⟨-, hwf⟩ := hinv
  obtain ⟨u, hu, hread, hframe⟩ := storeRegisters s.preIncrement x hwf
  have hpc : u.pc = s.pc + 2 := hframe .pc fun ⟨_, e, _⟩ => nomatch e
  have huf : u.fault = none := (hframe .faultLatch fun ⟨_, e, _⟩ => nomatch e).trans hs
  rw [← hi] at hu
  have hfetch (r : Reg) (hr : r ≤ x) : u.readByte (u.pc.toNat + r.val) = s.reg r := by
    have hbase : (u.pc.toNat + r.val) % 4096 = (s.preIncrement.dataBase + r.val) % 4096 := by
      have htwo : BitVec.toNat (2 : Word) = 2 := rfl
      rw [hpc, State.dataBase, State.preIncrement_i, BitVec.toNat_add, htwo]
      omega
    rw [State.readByte_congr_mod u hbase, ← State.readByte_mod, hread r hr, State.reg_preIncrement]
  exact ⟨_, step_of_exec hs hu huf,
    State.nextInstr_of_readByte (s := u.tick.nextSample) (hfetch 0 (Fin.zero_le x)) (hfetch 1 hx)⟩

/-! ## The key wait (44_timer_key.md R155) -/

/-- The step of a key read with no key down takes its pre-increment back, so it is the tick alone. -/
theorem step_of_keyWait {s : State} {x : Reg} (hs : s.fault = none) (hi : s.nextInstr = .ldVxK x)
    (hk : s.lowestKey = none) : step s = .next s.tick.nextSample := by
  have hexec := exec_ldVxK_of_lowestKey_none (s := s.preIncrement) x hk
  have hback : { s.preIncrement with pc := s.preIncrement.pc - 2 } = s := by
    simp [State.preIncrement]
  rw [hback, ← hi] at hexec
  exact step_of_exec hs hexec hs

theorem State.tick_nextSample_changesOnly (s : State) :
    ChangesOnly (fun p => p = .delayTimer ∨ p = .soundTimer ∨ p = .inputs) s s.tick.nextSample := by
  intro p hp
  cases p
  case delayTimer | soundTimer | inputs => simp at hp
  all_goals rfl

theorem ChangesOnly.refl (written : Part → Prop) (s : State) : ChangesOnly written s s := by
  intro p _
  cases p
  case inputs => exact ⟨rfl, rfl⟩
  all_goals rfl

theorem ChangesOnly.trans_self {written : Part → Prop} {s t u : State} (hst : ChangesOnly written s t)
    (htu : ChangesOnly written t u) : ChangesOnly written s u := fun p hp =>
  hst.trans htu p fun h => hp (h.elim id id)

/-- Settles O52, by induction on the number of steps: after the first the machine is at the same instruction, one sample
further. -/
theorem keyWaitHoldsWhileNoKeyIsDown : Obligations.KeyWaitHoldsWhileNoKeyIsDown := by
  intro k
  induction k with
  | zero =>
    intro s x hs _ _ _
    exact ⟨s, runs_zero.mpr rfl, hs, rfl, rfl, ChangesOnly.refl _ s⟩
  | succ k ih =>
    intro s x hs hi hlen hup
    obtain ⟨m, rest, hin⟩ := List.exists_cons_of_length_pos (by omega : 0 < s.inputs.length)
    rw [hin] at hlen hup
    have hsample : s.sample = m := by rw [State.sample, hin]
    have hkey : s.lowestKey = none := State.lowestKey_eq_none.mpr fun j => by
      rw [State.key, hsample]
      exact hup m (by simp) j
    have hstep := step_of_keyWait hs hi hkey
    have hrest : s.tick.nextSample.inputs = rest := congrArg List.tail hin
    obtain ⟨t, hrun, ht, hdt, hst, hframe⟩ := ih s.tick.nextSample x hs hi (by rw [hrest]; simpa using hlen)
      (fun m' hm' j => hup m' (by rw [hrest] at hm'; simp [hm']) j)
    rw [State.tick_nextSample_dt_toNat] at hdt
    rw [State.tick_nextSample_st_toNat] at hst
    exact ⟨t, (runs_succ hstep).mpr hrun, ht, by omega, by omega, s.tick_nextSample_changesOnly.trans_self hframe⟩

end Sys2Proof.Machine

namespace Sys2Proof.Machine

/-! ## Drawing (45_display.md R161, R162) -/

/-- From the screen and flag `p` to `q`: the pixels `covered` are inverted, the others stay, and the flag is raised if a
covered pixel was on. -/
def Inverts (covered : Fin 32 → Fin 64 → Prop) (p q : Screen × Bool) : Prop :=
  (∀ R C, covered R C → Screen.get q.1 R C = !Screen.get p.1 R C) ∧
  (∀ R C, ¬ covered R C → Screen.get q.1 R C = Screen.get p.1 R C) ∧
  (q.2 = true ↔ p.2 = true ∨ ∃ R C, covered R C ∧ Screen.get p.1 R C = true)

theorem Inverts.nothing {covered : Fin 32 → Fin 64 → Prop} (h : ∀ R C, ¬ covered R C) (p : Screen × Bool) :
    Inverts covered p p :=
  ⟨fun R C hc => absurd hc (h R C), fun _ _ _ => rfl, ⟨.inl, fun hp => hp.resolve_right fun ⟨R, C, hc, _⟩ => h R C hc⟩⟩

theorem Inverts.congr {covered covered' : Fin 32 → Fin 64 → Prop} {p q : Screen × Bool} (h : Inverts covered p q)
    (hiff : ∀ R C, covered' R C ↔ covered R C) : Inverts covered' p q := by
  obtain rfl : covered' = covered := funext fun R => funext fun C => propext (hiff R C)
  exact h

/-- Two draws that cover no pixel in common, one after the other. -/
theorem Inverts.trans {cov cov' : Fin 32 → Fin 64 → Prop} {p q r : Screen × Bool} (hpq : Inverts cov p q)
    (hqr : Inverts cov' q r) (hdisj : ∀ R C, cov R C → ¬ cov' R C) :
    Inverts (fun R C => cov R C ∨ cov' R C) p r := by
  obtain ⟨hon, hoff, hflag⟩ := hpq
  obtain ⟨hon', hoff', hflag'⟩ := hqr
  refine ⟨?_, ?_, ?_⟩
  · rintro R C (hc | hc')
    · rw [hoff' R C (hdisj R C hc), hon R C hc]
    · rw [hon' R C hc', hoff R C fun hc => hdisj R C hc hc']
  · intro R C hnone
    rw [hoff' R C fun hc' => hnone (.inr hc'), hoff R C fun hc => hnone (.inl hc)]
  · have hlater : (∃ R C, cov' R C ∧ Screen.get q.1 R C = true) ↔ ∃ R C, cov' R C ∧ Screen.get p.1 R C = true :=
      exists₂_congr fun R C => and_congr_right fun hc' => by rw [hoff R C fun hc => hdisj R C hc hc']
    rw [hflag', hflag, hlater, or_assoc]
    simp only [or_and_right, exists_or]

/-- Draws in a row, no two of which cover a pixel in common. -/
theorem Inverts.foldl {f : Screen × Bool → Nat → Screen × Bool} {cov : Nat → Fin 32 → Fin 64 → Prop} {n : Nat}
    (hstep : ∀ p, ∀ k < n, Inverts (cov k) p (f p k))
    (hdisj : ∀ j k R C, j < k → k < n → cov j R C → ¬ cov k R C) (p : Screen × Bool) :
    Inverts (fun R C => ∃ k < n, cov k R C) p ((List.range n).foldl f p) := by
  induction n with
  | zero => exact Inverts.nothing (fun R C ⟨_, hk, _⟩ => absurd hk (Nat.not_lt_zero _)) p
  | succ n ih =>
    have hfirst := ih (fun p k hk => hstep p k (by omega)) fun j k R C hjk hk => hdisj j k R C hjk (by omega)
    rw [List.range_succ, List.foldl_append]
    have hlast := hfirst.trans (hstep _ n (by omega)) fun R C ⟨k, hk, hc⟩ => hdisj k n R C hk (by omega) hc
    refine hlast.congr fun R C => ?_
    constructor
    · rintro ⟨k, hk, hc⟩
      obtain hlt | rfl := Nat.lt_succ_iff_lt_or_eq.mp hk
      · exact .inl ⟨k, hlt, hc⟩
      · exact .inr hc
    · rintro (⟨k, hk, hc⟩ | hc)
      · exact ⟨k, by omega, hc⟩
      · exact ⟨n, by omega, hc⟩

theorem drawPixel_inverts (y x : Nat) (on : Bool) (p : Screen × Bool) :
    Inverts (fun R C => R = screenRow y ∧ C = screenCol x ∧ on = true) p (drawPixel y x on p) := by
  cases on
  case false => exact Inverts.nothing (fun R C ⟨_, _, h⟩ => nomatch h) p
  case true =>
    refine ⟨?_, ?_, ?_⟩
    · rintro R C ⟨rfl, rfl, -⟩
      simp [drawPixel]
    · intro R C hc
      simp_all [drawPixel]
    · simp [drawPixel]

/-- The eight pixels of a row land in different columns. -/
theorem drawRow_inverts (y x : Nat) (b : Byte) (p : Screen × Bool) :
    Inverts (fun R C => ∃ c < 8, R = screenRow y ∧ C = screenCol (x + c) ∧ spriteBit b c = true) p
      (drawRow y x b p) := by
  refine Inverts.foldl (fun p c _ => drawPixel_inverts y (x + c) (spriteBit b c) p) ?_ p
  rintro j k R C hjk hk ⟨-, hj, -⟩ ⟨-, hk', -⟩
  have hcol : (x + j) % 64 = (x + k) % 64 := congrArg Fin.val (hj.symm.trans hk')
  omega

/-- The rows of a sprite, at most 32, land in different rows. -/
theorem State.drawSprite_inverts (s : State) (y x : Nat) {n : Nat} (hn : n ≤ 32) :
    Inverts (fun R C => ∃ r < n, ∃ c < 8, R = screenRow (y + r) ∧ C = screenCol (x + c) ∧
      spriteBit (s.spriteByte r) c = true) (s.fb, false) (s.drawSprite y x n) := by
  refine Inverts.foldl (fun p r _ => drawRow_inverts (y + r) x (s.spriteByte r) p) ?_ (s.fb, false)
  rintro j k R C hjk hk ⟨-, -, hj, -⟩ ⟨-, -, hk', -⟩
  have hrow : (y + j) % 32 = (y + k) % 32 := congrArg Fin.val (hj.symm.trans hk')
  omega

theorem State.spriteCovers_iff {s : State} {x y : Reg} {n : Nat} {R : Fin 32} {C : Fin 64} :
    s.spriteCovers x y n R C ↔ ∃ r < n, ∃ c < 8, R = screenRow ((s.reg y).toNat % 32 + r) ∧
      C = screenCol ((s.reg x).toNat % 64 + c) ∧ spriteBit (s.spriteByte r) c = true := by
  simp only [State.spriteCovers, Fin.ext_iff]
  rfl

/-- DRW writes the screen with the covered pixels inverted, then the flag. -/
theorem exec_drw (x y : Reg) (n : Fin 16) (s : State) : ∃ drawn : Screen × Bool,
    Inverts (s.spriteCovers x y n.val) (s.fb, false) drawn ∧
    exec (.drw x y n) s = .next ((s.setScreen drawn.1).setFlag drawn.2) :=
  ⟨_, (s.drawSprite_inverts _ _ (by omega)).congr fun _ _ => State.spriteCovers_iff, rfl⟩

/-- Settles O55: the draw inverts the covered pixels of a screen whose flag starts low, and VF takes the flag. -/
theorem drawInvertsTheCoveredPixels : Obligations.DrawInvertsTheCoveredPixels := by
  intro s x y n
  obtain ⟨drawn, ⟨hon, hoff, hflag⟩, hexec⟩ := exec_drw x y n s
  simp only [Bool.false_eq_true, false_or] at hflag
  refine ⟨_, hexec, hon, hoff, fun hc => ?_, fun hc => ?_, ?_⟩
  · rw [State.reg_setFlag, if_pos rfl, if_pos (hflag.mpr hc)]
  · rw [State.reg_setFlag, if_pos rfl, if_neg fun h => hc (hflag.mp h)]
  · intro p hp
    exact (s.setScreen_changesOnly drawn.1).trans (State.setReg_changesOnly _ vf _) p fun h => hp h.symm

/-- What a sprite covers is told by two registers, I and memory. -/
theorem State.spriteCovers_congr {s t : State} {x y : Reg} (hx : t.reg x = s.reg x) (hy : t.reg y = s.reg y)
    (hi : t.i = s.i) (hmem : ∀ a, t.readByte a = s.readByte a) (n : Nat) (R : Fin 32) (C : Fin 64) :
    t.spriteCovers x y n R C ↔ s.spriteCovers x y n R C := by
  simp only [State.spriteCovers, State.dataBase, hx, hy, hi, hmem]

/-- Settles O56: the first draw moves nothing that the second one's sprite is made of, so both cover the same pixels. -/
theorem drawTwiceRestoresTheScreen : Obligations.DrawTwiceRestoresTheScreen := by
  intro s x y n hx hy
  obtain ⟨t, ht, hon, hoff, -, -, hframe⟩ := drawInvertsTheCoveredPixels s x y n
  obtain ⟨u, hu, hon', hoff', hset, hclear, -⟩ := drawInvertsTheCoveredPixels t x y n
  have hcov := State.spriteCovers_congr (hframe (.reg x) (by simp [hx])) (hframe (.reg y) (by simp [hy]))
    (hframe .index (by simp)) (fun a => hframe (.byte a) (by simp)) n.val
  refine ⟨t, u, ht, hu, fun R C => ?_, ?_⟩
  · by_cases hc : s.spriteCovers x y n.val R C
    · rw [hon' R C ((hcov R C).mpr hc), hon R C hc, Bool.not_not]
    · rw [hoff' R C fun h => hc ((hcov R C).mp h), hoff R C hc]
  · have hmet : (∃ R C, t.spriteCovers x y n.val R C ∧ t.pixel R C = true) ↔
        ∃ R C, s.spriteCovers x y n.val R C ∧ s.pixel R C = false :=
      exists₂_congr fun R C => by
        rw [hcov R C]
        exact and_congr_right fun hc => by rw [hon R C hc, Bool.not_eq_true']
    rw [← hmet]
    refine ⟨fun hone => ?_, hset⟩
    by_contra hnone
    rw [hclear hnone] at hone
    exact absurd hone (by decide)

end Sys2Proof.Machine
